-- ==== Sys2Proof/Word.lean ====
section
/-! DEFINITION. The plain words of the part (spec/00_scope.md, section 4.2): memory words, addresses, lane masks, the two
ports, and a pair of things held once for each port. -/
namespace Sys2Proof

/-- A memory word: 32 data bits (00_scope.md, 4.2). -/
abbrev Word := BitVec 32

/-- What a processor drives on its port: a 16-bit logical word address. -/
abbrev LogAddr := BitVec 16

/-- What the part drives on the M port: a 17-bit physical word address. -/
abbrev PhysAddr := BitVec 17

/-- One bit for each byte lane of a word, lane i at bit i. -/
abbrev Lanes := BitVec 4

/-- The two processor ports. -/
inductive Port where
  | A
  | B
  deriving DecidableEq, Repr

/-- The port that is not `p`. -/
def Port.other : Port → Port
  | .A => .B
  | .B => .A

@[simp] theorem Port.other_other (p : Port) : p.other.other = p := by cases p <;> rfl

/-- One thing for each port: the spec says "per port" of a journal, of an attention state, of a port interface. -/
structure Both (α : Type) where
  a : α
  b : α
  deriving DecidableEq, Repr

/-- The thing of port `p`. -/
def Both.get {α : Type} (x : Both α) : Port → α
  | .A => x.a
  | .B => x.b

/-- `x` with port `p`'s thing changed by `f`, the other port's as it was. -/
def Both.modify {α : Type} (x : Both α) (p : Port) (f : α → α) : Both α :=
  match p with
  | .A => { x with a := f x.a }
  | .B => { x with b := f x.b }

/-- `x` with port `p`'s thing replaced by `v`. -/
def Both.set {α : Type} (x : Both α) (p : Port) (v : α) : Both α :=
  x.modify p fun _ => v

@[simp] theorem Both.get_modify_self {α : Type} (x : Both α) (p : Port) (f : α → α) :
    (x.modify p f).get p = f (x.get p) := by cases p <;> rfl

@[simp] theorem Both.get_modify_other {α : Type} (x : Both α) (p : Port) (f : α → α) :
    (x.modify p f).get p.other = x.get p.other := by cases p <;> rfl

@[simp] theorem Both.get_other_modify {α : Type} (x : Both α) (p : Port) (f : α → α) :
    (x.modify p.other f).get p = x.get p := by cases p <;> rfl

theorem Both.get_modify_of_ne {α : Type} (x : Both α) {p q : Port} (h : q ≠ p) (f : α → α) :
    (x.modify p f).get q = x.get q := by cases p <;> cases q <;> first | rfl | exact absurd rfl h

@[simp] theorem Both.get_set_self {α : Type} (x : Both α) (p : Port) (v : α) :
    (x.set p v).get p = v := by cases p <;> rfl

@[simp] theorem Both.get_set_other {α : Type} (x : Both α) (p : Port) (v : α) :
    (x.set p v).get p.other = x.get p.other := by cases p <;> rfl

theorem Both.get_set_of_ne {α : Type} (x : Both α) {p q : Port} (h : q ≠ p) (v : α) :
    (x.set p v).get q = x.get q := Both.get_modify_of_ne x h _

theorem Both.ext_get {α : Type} {x y : Both α} (h : ∀ p, x.get p = y.get p) : x = y := by
  cases x; cases y; have ha := h .A; have hb := h .B; simp only [Both.get] at ha hb; simp [ha, hb]

end Sys2Proof
end

