-- ==== Sys2Proof/Syntax.lean ====
section
/-! DEFINITION. The commands: one constructor for each row of spec/opcode_table.json. Each row is one event, whole and
indivisible (spec/95_what_each_step_holds.md). The operands are what the event brings with it: the port and what its
processor drives, the channel or group concerned, the levels of the straps and of PFAIL_N at the rise of RST_N. -/
namespace Sys2Proof

/-- What a processor drives on its port while it raises REQ (10.1): x_WR, x_ADDR, x_LANE, x_DATA. Lanes and data of a read
are ignored (10.1: "A_LANE: byte-lane mask of a write; ignored for a read"). -/
structure Drive where
  wr    : Bool
  addr  : LogAddr
  lanes : Lanes
  data  : Word
  deriving DecidableEq, Repr

/-- A read of logical address `a`. -/
def Drive.read (a : LogAddr) : Drive := { wr := false, addr := a, lanes := 0, data := 0 }

/-- A write of `v` in lanes `l` to logical address `a`. -/
def Drive.write (a : LogAddr) (l : Lanes) (v : Word) : Drive := { wr := true, addr := a, lanes := l, data := v }

/-- The commands of the part, in the order of the table. -/
inductive Instr where
  /-- ACCESS_ARRIVAL_HELD (R95): REQ rises at port `p` with `d` driven. -/
  | accessArrivalHeld (p : Port) (d : Drive)
  /-- REQ_FALL (R94): REQ falls at port `p`. -/
  | reqFall (p : Port)
  /-- PORT_ACCESS_TAKE (R72): REQ rises at port `p` with `d` driven. -/
  | portAccessTake (p : Port) (d : Drive)
  /-- PRODUCER_WRITE (R7): port `p` presents a write in a channel window it produces. -/
  | producerWrite (p : Port) (addr : LogAddr) (lanes : Lanes) (data : Word)
  /-- PRODUCER_READ (R17): port `p` presents a read in a channel window it produces. -/
  | producerRead (p : Port) (addr : LogAddr)
  /-- CONSUMER_READ (R46): port `p` presents a read in a channel window it consumes. -/
  | consumerRead (p : Port) (addr : LogAddr)
  /-- COMMIT_REQUEST (R112): port `p` presents a full-lane write of `v` to COMMIT. -/
  | commitRequest (p : Port) (v : Word)
  /-- ENABLE_TAKE (R160): port `p` presents a full-lane write of `v` to its ENABLE word. -/
  | enableTake (p : Port) (v : Word)
  /-- ACK_TAKE (R158): port `p` presents a full-lane write of `v` to its ACK word. -/
  | ackTake (p : Port) (v : Word)
  /-- JREAD_TAKE (R145): port `p` presents a full-lane write of `v` to its JREAD word. -/
  | jreadTake (p : Port) (v : Word)
  /-- REARM_TAKE (R24): port `p` presents a full-lane write of `v` to its REARM word. -/
  | rearmTake (p : Port) (v : Word)
  /-- MEMORY_CYCLE_END (R97): the SRAM returns M_RDY. -/
  | memoryCycleEnd
  /-- CYCLELESS_COMPLETION (R93): the access of port `p`, taken and needing no memory cycle, completes. -/
  | cyclelessCompletion (p : Port)
  /-- INSTALL (R123): the drain has ended and the new table set replaces the old. -/
  | install
  /-- TICK (R56): a rising edge of TCLK at which the prescaler count reaches the divisor. -/
  | tick
  /-- FILL_EXPIRY (R14): the fill deadline of channel `c` is reached. -/
  | fillExpiry (c : Nat)
  /-- FRESHNESS_DEADLINE_REACHED (R68): the freshness deadline of channel `c` is reached. -/
  | freshnessDeadlineReached (c : Nat)
  /-- PIN_RELEASE (R50): the hold deadline of group `g`'s pin is reached. -/
  | pinRelease (g : Nat)
  /-- PARTIAL_PUBLICATION (R41): the gather deadline of group `g` is reached. -/
  | partialPublication (g : Nat)
  /-- FRAME_TICK (R37): the next frame time of TIMED group `g` is reached. -/
  | frameTick (g : Nat)
  /-- HOLDOVER_START (R172, R173): PFAIL_N falls. -/
  | holdoverStart
  /-- RESET_ASSERT (R168): RST_N falls. -/
  | resetAssert
  /-- RESET_RELEASE (R169, R170): RST_N rises, with the straps at `msz` and `cfgp` (low names Port A, high Port B) and
  PFAIL_N low or high. -/
  | resetRelease (msz : BitVec 2) (cfgpHigh : Bool) (pfailLow : Bool)
  /-- TCLK_EDGE (R55): a rising edge of TCLK at which the count does not reach the divisor. -/
  | tclkEdge
  deriving DecidableEq, Repr

end Sys2Proof
end

