-- ==== Sys2Proof/Config.lean ====
section
/-! DEFINITION. What the spec leaves open: free values, each an opaque constant that nothing can evaluate, applied to the
counter that State holds (`freeCtr`) or, for the order of a grant, to the requester too. And the one fixed value of what a
memory byte that nothing has written reads as. -/
namespace Sys2Proof.Config

/-- R99: whether requester number `r` (0 Port A, 1 Port B, 2 ENGINE), having begun to wait at the moment of a grant, is
among the waiting requesters at that grant. "Both outcomes are correct." Free value (notes/assumptions/8.md). -/
opaque joinsGrant : Nat → Nat → Bool

/-- R133: "the Mirror may start any dirty item that these constraints allow, and the order among different items is not
fixed". The pick, to be taken modulo the number of items allowed. Free value (notes/assumptions/9.md). -/
opaque mirrorPick : Nat → Nat

/-- R54, R60, R63: deadlines and frame ticks of one tick come in either order. The pick among those due, to be taken modulo
their number. Free value (notes/assumptions/4.md). -/
opaque dueOrder : Nat → Nat

/-- R107: what a write cycle that a reset abandons leaves in driven lane `i`: 0 the old byte and check bit, 1 the new
ones, 2 a mixture whose check bit disagrees with its data. Free value (notes/assumptions/10.md). -/
opaque cutLane : Nat → Nat → Fin 3

/-- R107: in the mixture of lane `i`, which bits are the new byte's. Free value (notes/assumptions/10.md). -/
opaque cutMask : Nat → Nat → BitVec 8

/-- What a data byte that nothing has written reads as. DESIGN CHOICE, unsafe (notes/assumptions/7.md): the note under
R101 calls the contents of SRAM after power is first applied arbitrary. -/
def unwrittenByte : BitVec 8 := 0x00#8

/-- What a check bit that nothing has written reads as: the one that agrees with `unwrittenByte` (R101: "An all-zero byte
therefore has a check bit of 1"). DESIGN CHOICE, unsafe (notes/assumptions/7.md). -/
def unwrittenCheck : Bool := true

end Sys2Proof.Config
end

