-- ==== Sys2Proof/Machine/State.lean ====
section
/-! DEFINITION. The state of the part as plain data: every register, ring, counter, mode and pin the spec gives it, the SRAM
behind its M port, and the queue of commands that wait. `State.reset` is the part while RST_N is low, at power-on. -/
namespace Sys2Proof.Machine

/-! ### Names the spec sets in capitals -/

/-- The part state (R167). -/
inductive PartState where
  | unconfigured
  | running
  | holdover
  deriving DecidableEq, Repr

/-- The map state (R74). -/
inductive MapState where
  | unconfigured
  | installed
  deriving DecidableEq, Repr

/-- The condition of a channel (R2). -/
inductive Condition where
  | empty
  | fresh
  | stale
  deriving DecidableEq, Repr

/-- The rights of a port in a PLAIN region (R83). -/
inductive Rights where
  | none
  | read
  | readWrite
  deriving DecidableEq, Repr

/-- The side of a channel-window access (R82). -/
inductive Side where
  | producer
  | consumer
  deriving DecidableEq, Repr

/-- The trigger words (R80): COMMIT, and four for each port. -/
inductive Trigger where
  | commit
  | enable (p : Port)
  | ack (p : Port)
  | jread (p : Port)
  | rearm (p : Port)
  deriving DecidableEq, Repr

/-- The ownership class of a control-area word (R77). -/
inductive WordClass where
  | partOwned
  | table
  | trigger (t : Trigger)
  | user
  deriving DecidableEq, Repr

/-- The five kinds of violation (R87). -/
inductive ViolationKind where
  | rights
  | consumerWrite
  | owned
  | table
  | foreignTrigger
  deriving DecidableEq, Repr

/-- The requesters of the M port (R98). -/
inductive Requester where
  | port (p : Port)
  | engine
  deriving DecidableEq, Repr

/-- The result codes of a load (section 6.4, R116, R130). B2 also holds code 00h, with generation 0, before any load has
ended (R108). -/
inductive ResultCode where
  | ok
  | badParam
  | badRegion
  | badChannel
  | badGroup
  | logicalOverlap
  | physicalOverlap
  | beyondFitted
  | chainBroken
  | mixedProducer
  | parity
  | abandoned
  deriving DecidableEq, Repr

/-- The table codes of a detail (R108, 10.3). -/
inductive TableCode where
  | none
  | parameter
  | region
  | channel
  | group
  deriving DecidableEq, Repr

/-- The detail of a result (B3): a table and an entry index, or for PARITY the table and the address of the word. -/
structure Detail where
  table : TableCode
  index : BitVec 12
  deriving DecidableEq, Repr

/-- "table NONE with index 0" (R108). -/
def Detail.nothing : Detail := { table := .none, index := 0 }

/-! ### The exchange unit (chapters 1 to 3) -/

/-- A deadline formed from a limit (R59): a start and a limit from 1 to 65535 ticks. -/
structure Deadline where
  start : Word
  limit : BitVec 16
  deriving DecidableEq, Repr

/-- The installed copy of a channel descriptor: W0 to W7 as read (R110). -/
structure ChanDesc where
  w0 : Word
  w1 : Word
  w2 : Word
  w3 : Word
  w4 : Word
  w5 : Word
  w6 : Word
  w7 : Word
  deriving DecidableEq, Repr

/-- The installed copy of a group descriptor: W0 to W3 as read (R110). -/
structure GroupDesc where
  w0 : Word
  w1 : Word
  w2 : Word
  w3 : Word
  deriving DecidableEq, Repr

/-- The target of a fill pass (R2): a buffer index or SHED. -/
inductive Target where
  | buffer (b : Nat)
  | shed
  deriving DecidableEq, Repr

/-- An open fill pass (R2). -/
structure FillPass where
  target   : Target
  seq      : Word
  openTime : Word
  deadline : Option Deadline
  deriving DecidableEq, Repr

/-- A pending buffer (R2). -/
structure PendingBuffer where
  buf       : Nat
  seq       : Word
  openTime  : Word
  closeTime : Word
  deriving DecidableEq, Repr

/-- An installed channel: what the part keeps of its descriptor (R110) and its runtime record (R2). -/
structure Channel where
  desc     : ChanDesc
  sig      : BitVec 16
  cond     : Condition
  halted   : Bool
  live     : Option Nat
  pend     : Option PendingBuffer
  pass     : Option FillPass
  held     : Option Nat
  blank    : Bool
  fillSeq  : Word
  pubCount : Word
  lastPub  : Word
  freshDl  : Option Deadline
  deriving DecidableEq, Repr

/-- An open read pin (R32). -/
structure Pin where
  openTime : Word
  deadline : Option Deadline
  tainted  : Bool
  deriving DecidableEq, Repr

/-- A running gather (R32). -/
structure Gather where
  start    : Word
  deadline : Option Deadline
  deriving DecidableEq, Repr

/-- An installed group: the copy of its descriptor (R110) and its runtime record (R32). `nextFrame` is present in a TIMED
group. -/
structure Group where
  desc      : GroupDesc
  pin       : Option Pin
  gather    : Option Gather
  nextFrame : Option Word
  deriving DecidableEq, Repr

/-! ### The map unit and the port interfaces (chapters 4 and 5) -/

/-- A valid entry of the installed region table (R74, R83). -/
structure Region where
  rightsA : Rights
  rightsB : Rights
  lbase   : BitVec 16
  len     : BitVec 16
  pbase   : PhysAddr
  deriving DecidableEq, Repr

/-- Where a channel-window access was steered when it was taken (R7, R17, R46): to a buffer's word, or nowhere (a write is
dropped, a read returns zero). -/
inductive Steer where
  | buffer (b : Nat) (phys : PhysAddr)
  | nowhere
  deriving DecidableEq, Repr

/-- The decode result of a channel-window access (R73, R7, R46): the channel and side, the steering, for a producer write
in a pass the pass's sequence number, and whether the access is to the closing word: of the channel for a producer's
write (R9), of the closing member for a consumer's read (R47). -/
structure ChannelAccess where
  ch      : Nat
  side    : Side
  steer   : Steer
  passSeq : Option Word
  closing : Bool
  deriving DecidableEq, Repr

/-- The outcome of a decode (R72) with the items of R73 that belong to it. -/
inductive Decoded where
  | control (cls : WordClass) (trigger : Bool) (phys : PhysAddr)
  | channel (a : ChannelAccess)
  | plain (region : Nat) (phys : PhysAddr)
  | identity (phys : PhysAddr)
  | unmapped
  | absent
  | violation (kind : ViolationKind) (region : Option Nat)
  deriving DecidableEq, Repr

/-- An access taken: its record as captured (R91), its decode result with the ERR item (R73), and whether REQ has fallen
since the take (R94). -/
structure Taken where
  drive     : Drive
  outcome   : Decoded
  err       : Bool
  withdrawn : Bool
  deriving DecidableEq, Repr

/-- The access state of a port with its access record (R91). -/
inductive AccessState where
  | idle
  | deferred (d : Drive)
  | taken (t : Taken)
  | inCycle (t : Taken)
  | done (t : Taken) (rdata : Word) (err : Bool)
  deriving DecidableEq, Repr

/-- A port interface: its input pins as driven (x_REQ and the rest, 10.1), its access state, its fault-signal setting
(R89). -/
structure PortIf where
  req         : Bool
  inputs      : Drive
  access      : AccessState
  faultSignal : Bool
  deriving DecidableEq, Repr

/-! ### The M port, the SRAM, the Engine (chapters 5 and 6) -/

/-- What a cycle of the M port is for: a port's access, a Loader read, a Mirror write. -/
inductive CycleUse where
  | port (p : Port)
  | loader
  | mirror
  deriving DecidableEq, Repr

/-- The M-port cycle in progress (R97). -/
structure MCycle where
  use   : CycleUse
  addr  : PhysAddr
  wr    : Bool
  lanes : Lanes
  data  : Word
  deriving DecidableEq, Repr

/-- The SRAM: data bytes and check bits, each a list of cells in one canonical form. Lane `i` of word `w` has key
`4 * w + i` in both. -/
structure Sram where
  data  : List Host.Cell
  check : List (Nat × Bool)
  deriving DecidableEq, Repr

/-- The requesters known to be waiting before this event (R99; the model's own bookkeeping, notes/assumptions/8.md). -/
structure RequestLines where
  a      : Bool
  b      : Bool
  engine : Bool
  deriving DecidableEq, Repr

/-- A load (R111). `words` are the table words read so far in the order of R114, `cands` the resume candidates picked
(R115), `resume` the status words read so far, S0 then S3 of each candidate, each with whether it passed its check. -/
structure Load where
  gen       : BitVec 16
  start     : Word
  words     : List Word
  firstFail : Option PhysAddr
  cands     : List Nat
  resume    : List (Word × Bool)
  deriving DecidableEq, Repr

/-- The Loader state with the current load (R111). -/
inductive LoaderState where
  | idle
  | reading (l : Load)
  | draining (l : Load)
  deriving DecidableEq, Repr

/-- What B2 and B3 show: the last load that ended (R108). -/
structure LoadResult where
  gen    : BitVec 16
  code   : ResultCode
  detail : Detail
  deriving DecidableEq, Repr

/-- The Mirror items (R131). -/
inductive MirrorItem where
  | part (n : Nat)
  | report (p : Port)
  | head (p : Port)
  | slot (p : Port) (k : BitVec 7)
  | chanBlock (n : Nat)
  | groupBlock (n : Nat)
  deriving DecidableEq, Repr

/-- The item in flight (R132, R134): the content captured at its first grant, the number of its cycles granted, and
whether its internal value has changed since. -/
structure Flight where
  item    : MirrorItem
  content : List Word
  granted : Nat
  changed : Bool
  deriving DecidableEq, Repr

/-- The Mirror (R131 to R135): the dirty items in the order of `MirrorItem.code`, the item in flight, the update counts of
the status blocks, and which items have been started while which dirty item waited (R133). -/
structure Mirror where
  dirty      : List MirrorItem
  flight     : Option Flight
  chanCount  : Vector (BitVec 8) 24
  groupCount : Vector (BitVec 8) 24
  passed     : List (MirrorItem × MirrorItem)
  deriving DecidableEq, Repr

/-! ### Journals and attention (chapters 7 and 8) -/

/-- A journal record: the four words of its slot (R136, R150). -/
structure Record where
  w0 : Word
  w1 : Word
  w2 : Word
  w3 : Word
  deriving DecidableEq, Repr

/-- The journal of one port (R136). -/
structure Journal where
  ring     : Vector Record 128
  w        : BitVec 7
  c        : BitVec 7
  h        : BitVec 7
  rd       : BitVec 7
  lost     : BitVec 16
  lossTime : Word
  deriving DecidableEq, Repr

/-- The attention state of one port (R155, R160, R161, R163): latched event causes, enable set, report sequence, reported
set, attention line. -/
structure Attention where
  latched  : BitVec 12
  enable   : BitVec 12
  repSeq   : BitVec 16
  reported : BitVec 12
  line     : Bool
  deriving DecidableEq, Repr

/-- The pins that belong to no port, as last driven (10.1). -/
structure Pins where
  rstN   : Bool
  pfailN : Bool
  msz    : BitVec 2
  cfgp   : Bool
  deriving DecidableEq, Repr

/-! ### The state -/

/-- The state of the part and of its SRAM. -/
structure State where
  /-- The commands that wait, first in, first out. -/
  pending      : List Instr
  pins         : Pins
  /-- The part state (R167). -/
  partState    : PartState
  /-- MSZ as sampled at the last reset: the fitted size (R85). -/
  msz          : BitVec 2
  /-- The configuring port (R74). -/
  configPort   : Port
  ports        : Both PortIf
  mapState     : MapState
  regions      : Vector (Option Region) 16
  channels     : Vector (Option Channel) 24
  groups       : Vector (Option Group) 24
  /-- The exchange clock (R56). -/
  clock        : Word
  /-- The prescaler divisor, 1 to 256 (R55). -/
  divisor      : Nat
  /-- The prescaler count (R55). -/
  prescaler    : Nat
  lastGranted  : Requester
  requestLines : RequestLines
  cycle        : Option MCycle
  mem          : Sram
  loader       : LoaderState
  /-- The remembered request (R111). -/
  remembered   : Option (BitVec 16)
  /-- The installed generation (R108). -/
  installedGen : BitVec 16
  lastResult   : LoadResult
  mirror       : Mirror
  journals     : Both Journal
  attention    : Both Attention
  /-- How many free values have been used. -/
  freeCtr      : Nat
  deriving DecidableEq, Repr

/-- Reasons to stop. The spec gives the part no event that stops it, so there is none: what the spec calls a fault (a
violation, a parity error, a failed load) is an effect on State. -/
inductive Fault where
  deriving DecidableEq, Repr

/-- Reasons to refuse a command. -/
inductive Refusal where
  /-- A command that has no meaning yet; raised by an arm of `exec`, never by a meaning. Safe: the model stops. No arm of
  this model raises it. -/
  | notModelled (mnemonic : String)
  deriving DecidableEq, Repr

/-! ### Reset values -/

/-- A port interface at reset (R107, R89): IDLE, no record, setting off. The pins' levels are the board's; at power-on they
are taken low (DESIGN CHOICE, notes/assumptions/18.md). -/
def PortIf.reset : PortIf :=
  { req := false, inputs := Drive.read 0, access := .idle, faultSignal := false }

/-- A journal at reset (R153). "the internal values are not kept": the ring holds zeros, which nothing can observe (DESIGN
CHOICE, notes/assumptions/11.md). -/
def Journal.reset : Journal :=
  { ring := Vector.replicate 128 { w0 := 0, w1 := 0, w2 := 0, w3 := 0 }
    w := 0, c := 0, h := 0, rd := 0, lost := 0, lossTime := 0 }

/-- The attention state of a port at reset (R166). -/
def Attention.reset : Attention :=
  { latched := 0, enable := 0, repSeq := 0, reported := 0, line := false }

/-- The nine items that are dirty at reset (R135). -/
def Mirror.resetDirty : List MirrorItem :=
  [.part 0, .part 1, .part 2, .part 3, .part 4, .report .A, .report .B, .head .A, .head .B]

/-- The Mirror at reset (R135). -/
def Mirror.reset : Mirror :=
  { dirty := Mirror.resetDirty
    flight := none
    chanCount := Vector.replicate 24 0
    groupCount := Vector.replicate 24 0
    passed := [] }

/-- The part in reset at power-on: RST_N low, every block at the reset values of its chapter (R168 and the table after it),
memory with nothing listed, no command waiting. The straps have not been sampled yet: MSZ 00 and Port A until the rise of
RST_N samples them (DESIGN CHOICE, notes/assumptions/6.md). -/
def State.reset : State :=
  { pending := []
    pins := { rstN := false, pfailN := true, msz := 0, cfgp := false }
    partState := .unconfigured
    msz := 0
    configPort := .A
    ports := { a := PortIf.reset, b := PortIf.reset }
    mapState := .unconfigured
    regions := Vector.replicate 16 none
    channels := Vector.replicate 24 none
    groups := Vector.replicate 24 none
    clock := 0
    divisor := 1
    prescaler := 0
    lastGranted := .engine
    requestLines := { a := false, b := false, engine := false }
    cycle := none
    mem := { data := [], check := [] }
    loader := .idle
    remembered := none
    installedGen := 0
    lastResult := { gen := 0, code := .ok, detail := Detail.nothing }
    mirror := Mirror.reset
    journals := { a := Journal.reset, b := Journal.reset }
    attention := { a := Attention.reset, b := Attention.reset }
    freeCtr := 0 }

end Sys2Proof.Machine
end

