-- ==== Sys2Proof/Machine/Operands.lean ====
section
/-! DEFINITION. The formats of chapter 10: the fields of the words that software writes (descriptors, parameter word,
trigger words), the words that the part writes (part block, status blocks, report and head words, journal records), and
the addresses of the control area with their ownership classes (R77). -/
namespace Sys2Proof.Machine

/-- Bits `lo + len - 1` to `lo` of a word, as a number. -/
def field (w : Word) (lo len : Nat) : Nat := (w.extractLsb' lo len).toNat

/-- The port a producer or configuring-port bit names: 0 Port A, 1 Port B (10.3, 10.6). -/
def portOfBit (b : Bool) : Port := if b then .B else .A

/-- The bit that names a port: 0 Port A, 1 Port B. -/
def portBit : Port → BitVec 1
  | .A => 0
  | .B => 1

/-! ### The parameter word (10.5) -/

/-- The prescaler divisor a parameter word asks for: the prescale code plus one (R58, R109). -/
def paramDivisor (w : Word) : Nat := field w 0 8 + 1

/-- A fault-signal code: 01b OFF, 10b ON, 00b and 11b undefined (R109, 10.5). -/
def faultSignalCode (c : BitVec 2) : Option Bool :=
  if c = 0b01#2 then some false else if c = 0b10#2 then some true else none

/-- The fault-signal field of port `p` in a parameter word. -/
def paramFaultSignal (w : Word) (p : Port) : Option Bool :=
  match p with
  | .A => faultSignalCode (w.extractLsb' 8 2)
  | .B => faultSignalCode (w.extractLsb' 10 2)

/-! ### Region entries (10.6) -/

/-- A region entry as the Loader read it: W0 to W3. -/
structure RegionWords where
  w0 : Word
  w1 : Word
  w2 : Word
  w3 : Word
  deriving DecidableEq, Repr

/-- A rights code: 00b NONE, 01b READ, 11b READ-WRITE, 10b undefined (10.6). -/
def rightsCode (c : BitVec 2) : Option Rights :=
  if c = 0b00#2 then some .none else if c = 0b01#2 then some .read
  else if c = 0b11#2 then some .readWrite else none

def RegionWords.valid (r : RegionWords) : Bool := r.w0.getLsbD 0
def RegionWords.rightsA (r : RegionWords) : Option Rights := rightsCode (r.w0.extractLsb' 4 2)
def RegionWords.rightsB (r : RegionWords) : Option Rights := rightsCode (r.w0.extractLsb' 6 2)
def RegionWords.lbase (r : RegionWords) : BitVec 16 := r.w1.extractLsb' 0 16
def RegionWords.len (r : RegionWords) : BitVec 16 := r.w2.extractLsb' 0 16
def RegionWords.pbase (r : RegionWords) : PhysAddr := r.w3.extractLsb' 0 17

/-- The rights of port `p` in an installed region. -/
def Region.rights (r : Region) : Port → Rights
  | .A => r.rightsA
  | .B => r.rightsB

/-! ### Channel descriptors (10.6) -/

/-- The next-member value that ends a chain (10.6: 31 END). -/
def chainEnd : Nat := 31

def ChanDesc.valid (d : ChanDesc) : Bool := d.w0.getLsbD 0
def ChanDesc.producer (d : ChanDesc) : Port := portOfBit (d.w0.getLsbD 1)
/-- R1: "The port named in the descriptor is the producer of the channel, and the other port is its consumer." -/
def ChanDesc.consumer (d : ChanDesc) : Port := d.producer.other
def ChanDesc.depth (d : ChanDesc) : Nat := field d.w0 2 3
def ChanDesc.group (d : ChanDesc) : Nat := field d.w0 8 5
def ChanDesc.nextMember (d : ChanDesc) : Nat := field d.w0 16 5
def ChanDesc.notify (d : ChanDesc) : Bool := d.w0.getLsbD 24
def ChanDesc.stopOnError (d : ChanDesc) : Bool := d.w0.getLsbD 25
def ChanDesc.resume (d : ChanDesc) : Bool := d.w0.getLsbD 26
/-- The stale policy: true BLANK, false HOLD. -/
def ChanDesc.blankPolicy (d : ChanDesc) : Bool := d.w0.getLsbD 27
def ChanDesc.lbase (d : ChanDesc) : Nat := field d.w1 0 16
def ChanDesc.len (d : ChanDesc) : Nat := field d.w2 0 13
/-- The physical base of buffer `k`, 0 to 3 (W3 to W6). -/
def ChanDesc.base (d : ChanDesc) (k : Nat) : PhysAddr :=
  (match k with
    | 0 => d.w3
    | 1 => d.w4
    | 2 => d.w5
    | _ => d.w6).extractLsb' 0 17
def ChanDesc.fillLimit (d : ChanDesc) : BitVec 16 := d.w7.extractLsb' 0 16
def ChanDesc.freshLimit (d : ChanDesc) : BitVec 16 := d.w7.extractLsb' 16 16

/-- The two 16-bit halves of a word added modulo 65536. -/
def halvesSum (w : Word) : BitVec 16 := w.extractLsb' 16 16 + w.extractLsb' 0 16

/-- R110: "the sum, modulo 65536, of the fourteen 16-bit halves of its words W0 to W6". -/
def ChanDesc.signature (d : ChanDesc) : BitVec 16 :=
  halvesSum d.w0 + halvesSum d.w1 + halvesSum d.w2 + halvesSum d.w3 + halvesSum d.w4 + halvesSum d.w5 + halvesSum d.w6

/-- R124: "W0 to W6 are identical, word for word". -/
def ChanDesc.sameBody (d e : ChanDesc) : Bool :=
  d.w0 == e.w0 && d.w1 == e.w1 && d.w2 == e.w2 && d.w3 == e.w3 && d.w4 == e.w4 && d.w5 == e.w5 && d.w6 == e.w6

/-! ### Group descriptors (10.6) -/

/-- The group modes (R30). -/
inductive Mode where
  | immediate
  | timed
  | gathered
  deriving DecidableEq, Repr

/-- A mode code: 01b IMMEDIATE, 10b TIMED, 11b GATHERED, 00b undefined (10.6). -/
def modeCode (c : BitVec 2) : Option Mode :=
  if c = 0b01#2 then some .immediate else if c = 0b10#2 then some .timed
  else if c = 0b11#2 then some .gathered else none

def GroupDesc.valid (d : GroupDesc) : Bool := d.w0.getLsbD 0
def GroupDesc.mode (d : GroupDesc) : Option Mode := modeCode (d.w0.extractLsb' 4 2)
def GroupDesc.first (d : GroupDesc) : Nat := field d.w0 8 5
/-- W1 bits 15:0, the period of a TIMED group. -/
def GroupDesc.period (d : GroupDesc) : BitVec 16 := d.w1.extractLsb' 0 16
/-- W1 bits 15:0, the gather window of a GATHERED group. -/
def GroupDesc.window (d : GroupDesc) : BitVec 16 := d.w1.extractLsb' 0 16
def GroupDesc.phase (d : GroupDesc) : BitVec 16 := d.w2.extractLsb' 0 16
def GroupDesc.holdLimit (d : GroupDesc) : BitVec 16 := d.w3.extractLsb' 0 16

/-! ### Trigger words (10.4) -/

def commitGen (v : Word) : BitVec 16 := v.extractLsb' 0 16
def causeBits (v : Word) : BitVec 12 := v.extractLsb' 0 12
def jreadIndex (v : Word) : BitVec 7 := v.extractLsb' 0 7

/-! ### Addresses of the control area (10.2, R110) and its ownership classes (R77) -/

/-- The physical address of control word `n`. -/
def ctl (n : Nat) : PhysAddr := BitVec.ofNat 17 n

/-- The logical address of a trigger word. -/
def triggerAddr : Trigger → LogAddr
  | .commit => 0x008
  | .enable .A => 0x022
  | .ack .A => 0x023
  | .jread .A => 0x024
  | .rearm .A => 0x025
  | .enable .B => 0x02A
  | .ack .B => 0x02B
  | .jread .B => 0x02C
  | .rearm .B => 0x02D

/-- R77: the ownership class of control word `n`, fixed by its address. -/
def wordClass (n : Nat) : WordClass :=
  if n ≤ 0x004 then .partOwned
  else if n = 0x008 then .trigger .commit
  else if n = 0x010 then .table
  else if n = 0x020 ∨ n = 0x021 then .partOwned
  else if n = 0x022 then .trigger (.enable .A)
  else if n = 0x023 then .trigger (.ack .A)
  else if n = 0x024 then .trigger (.jread .A)
  else if n = 0x025 then .trigger (.rearm .A)
  else if n = 0x028 ∨ n = 0x029 then .partOwned
  else if n = 0x02A then .trigger (.enable .B)
  else if n = 0x02B then .trigger (.ack .B)
  else if n = 0x02C then .trigger (.jread .B)
  else if n = 0x02D then .trigger (.rearm .B)
  else if 0x040 ≤ n ∧ n ≤ 0x19F then .table
  else if 0x200 ≤ n ∧ n ≤ 0x28F then .partOwned
  else if 0x400 ≤ n ∧ n ≤ 0x7FF then .partOwned
  else .user

/-- R80: the port that a trigger word names; for COMMIT the configuring port. -/
def Trigger.owner (t : Trigger) (configPort : Port) : Port :=
  match t with
  | .commit => configPort
  | .enable p => p
  | .ack p => p
  | .jread p => p
  | .rearm p => p

/-- The fitted size in words that an MSZ value gives (R85). -/
def fittedWords (msz : BitVec 2) : Nat := 0x8000 * (msz.toNat + 1)

/-! ### Journal records (10.8, R149, R150) -/

/-- The record kinds (R149). -/
inductive Kind where
  | published
  | superseded
  | shed
  | fillExpired
  | fillAborted
  | pinExpired
  | pinTainted
  | groupPartial
  | stale
  | violation
  | parity
  | commit
  | holdover
  | gap
  | resumed
  | halted
  deriving DecidableEq, Repr

/-- The code of a kind (R149). -/
def Kind.code : Kind → BitVec 8
  | .published => 0x01
  | .superseded => 0x02
  | .shed => 0x03
  | .fillExpired => 0x04
  | .fillAborted => 0x05
  | .pinExpired => 0x06
  | .pinTainted => 0x07
  | .groupPartial => 0x08
  | .stale => 0x09
  | .violation => 0x0A
  | .parity => 0x0B
  | .commit => 0x0C
  | .holdover => 0x0D
  | .gap => 0x0E
  | .resumed => 0x0F
  | .halted => 0x10

/-- A buffer index of a record or status word: 0 to 3, or 7 for none (10.7, 10.8, R180, R182). -/
def indexCode (b : Option Nat) : BitVec 3 :=
  match b with
  | some k => BitVec.ofNat 3 k
  | none => 7

/-- A record with its fields laid out as 10.8 gives them: kind in bits 7:0 of W0, subject in 12:8, buffer index in 18:16,
flags in 31:20, the bits between written 0 (R180). -/
def mkRecord (k : Kind) (subject : Nat) (buf : Option Nat) (flags : BitVec 12) (arg timeA timeB : Word) : Record :=
  { w0 := (flags ++ 0#1 ++ indexCode buf ++ 0#3 ++ BitVec.ofNat 5 subject ++ k.code : BitVec (12 + 1 + 3 + 3 + 5 + 8))
    w1 := arg
    w2 := timeA
    w3 := timeB }

/-- Bit `n` of a flag field, set or clear. -/
def flagBit (n : Nat) (b : Bool) : BitVec 12 := if b then 1#12 <<< n else 0

/-- The word with the bits of the listed channel numbers set: the masks of GROUP_PARTIAL, PIN_EXPIRED, PIN_TAINTED and
HOLDOVER records (R53, R175: "bit n for channel n"). -/
def channelMask (ns : List Nat) : Word := ns.foldl (fun m n => m ||| (1#32 <<< n)) 0

/-- The code of a violation kind in a VIOLATION record (10.8). -/
def ViolationKind.code : ViolationKind → BitVec 3
  | .rights => 0b001
  | .consumerWrite => 0b010
  | .owned => 0b011
  | .table => 0b100
  | .foreignTrigger => 0b101

/-- The result codes (section 6.4, R116, R130). -/
def ResultCode.code : ResultCode → BitVec 8
  | .ok => 0x00
  | .badParam => 0x01
  | .badRegion => 0x02
  | .badChannel => 0x03
  | .badGroup => 0x04
  | .logicalOverlap => 0x05
  | .physicalOverlap => 0x06
  | .beyondFitted => 0x07
  | .chainBroken => 0x08
  | .mixedProducer => 0x09
  | .parity => 0x0A
  | .abandoned => 0x0B

/-- The table codes of B3 (10.3). -/
def TableCode.code : TableCode → BitVec 3
  | .none => 0b000
  | .parameter => 0b001
  | .region => 0b010
  | .channel => 0b011
  | .group => 0b100

/-- The fifteen bits 14:0 of B3 (10.3). -/
def Detail.bits (d : Detail) : BitVec 15 := (d.table.code ++ d.index : BitVec (3 + 12))

/-- R88, R180: the record of a violation at port access `d`. -/
def violationRecord (kind : ViolationKind) (subject : Nat) (region : Option Nat) (d : Drive) (now : Word) : Record :=
  let lanes : BitVec 4 := if d.wr then d.lanes else 0
  let flags : BitVec 12 := (0#4 ++ lanes ++ BitVec.ofBool d.wr ++ kind.code : BitVec (4 + 4 + 1 + 3))
  let arg : Word := (0#12 ++ BitVec.ofNat 4 (region.getD 0) ++ d.addr : BitVec (12 + 4 + 16))
  mkRecord .violation subject none flags arg now 0

/-- R104, R180: the record of a read with lanes `errs` in error. `chan` is the channel, buffer and side of a read in a
channel window. -/
def parityRecord (chan : Option (Nat × Nat × Side)) (errs : Lanes) (phys : PhysAddr) (addr : LogAddr) (now : Word) : Record :=
  let arg : Word := (0#15 ++ phys : BitVec (15 + 17))
  let timeB : Word := (0#16 ++ addr : BitVec (16 + 16))
  match chan with
  | some (c, b, side) =>
    mkRecord .parity c (some b)
      (0#6 ++ BitVec.ofBool (side == .consumer) ++ 1#1 ++ errs : BitVec (6 + 1 + 1 + 4)) arg now timeB
  | none => mkRecord .parity 0 none (0#8 ++ errs : BitVec (8 + 4)) arg now timeB

/-- R129: the COMMIT record of a load's end. -/
def commitRecord (r : LoadResult) (start now : Word) : Record :=
  mkRecord .commit 0 none (0#4 ++ r.code.code : BitVec (4 + 8)) (0#1 ++ r.detail.bits ++ r.gen : BitVec (1 + 15 + 16)) start now

/-- R141: the GAP record of a journal with lost count `lost`. -/
def gapRecord (lost : BitVec 16) (lossTime now : Word) : Record :=
  mkRecord .gap 0 none (flagBit 0 (lost == 0xFFFF)) (0#16 ++ lost : BitVec (16 + 16)) lossTime now

/-- The flags of a FILL_ABORTED record (10.8): INSTALL, PENDING, HOLDOVER. -/
def abortFlags (install pend holdover : Bool) : BitVec 12 :=
  flagBit 0 install ||| flagBit 1 pend ||| flagBit 2 holdover

/-- The buffer of a target, none if SHED (R27). -/
def Target.buffer? : Target → Option Nat
  | .buffer b => some b
  | .shed => none

/-- R27: the FILL_ABORTED record of an open pass of channel `n`. -/
def abortedPassRecord (n : Nat) (p : FillPass) (install holdover : Bool) (now : Word) : Record :=
  mkRecord .fillAborted n p.target.buffer? (abortFlags install false holdover) p.seq p.openTime now

/-- R27, R126, R128: the FILL_ABORTED record of a pending buffer of channel `n` dropped at an install. -/
def abortedPendingRecord (n : Nat) (p : PendingBuffer) (now : Word) : Record :=
  mkRecord .fillAborted n (some p.buf) (abortFlags true true false) p.seq p.openTime now

/-! ### Part block, report and head words, status blocks (10.3, 10.7, 10.9, R181, R182) -/

def PartState.code : PartState → BitVec 2
  | .unconfigured => 0b00
  | .running => 0b01
  | .holdover => 0b10

def LoaderState.code : LoaderState → BitVec 2
  | .idle => 0b00
  | .reading _ => 0b01
  | .draining _ => 0b10

def Condition.code : Condition → BitVec 2
  | .empty => 0b00
  | .fresh => 0b01
  | .stale => 0b10

/-- B0: vendor code 1C5Ah, part code 2404h (R108). -/
def wordB0 : Word := 0x1C5A2404

/-- B1: installed generation, part state, Loader state, remembered-request flag (10.3). -/
def wordB1 (s : State) : Word :=
  (0#11 ++ BitVec.ofBool s.remembered.isSome ++ s.loader.code ++ s.partState.code ++ s.installedGen :
    BitVec (11 + 1 + 2 + 2 + 16))

/-- B2: generation and result code of the last load that ended (10.3). -/
def wordB2 (s : State) : Word :=
  (0#8 ++ s.lastResult.code.code ++ s.lastResult.gen : BitVec (8 + 8 + 16))

/-- B3: the detail of that result (10.3). -/
def wordB3 (s : State) : Word := (0#17 ++ s.lastResult.detail.bits : BitVec (17 + 15))

/-- B4: fitted size in Ki words, MSZ as sampled, configuring port, divisor (10.3). -/
def wordB4 (s : State) : Word :=
  (0#7 ++ BitVec.ofNat 9 s.divisor ++ 0#3 ++ portBit s.configPort ++ 0#2 ++ s.msz ++
    BitVec.ofNat 8 (fittedWords s.msz / 1024) : BitVec (7 + 9 + 3 + 1 + 2 + 2 + 8))

/-- Part block word `n`, 0 to 4. -/
def partWord (s : State) (n : Nat) : Word :=
  match n with
  | 0 => wordB0
  | 1 => wordB1 s
  | 2 => wordB2 s
  | 3 => wordB3 s
  | _ => wordB4 s

/-- The head word of a journal: head index C and lost count L (R144, 10.9). -/
def headWord (j : Journal) : Word := (j.lost ++ 0#9 ++ j.c : BitVec (16 + 9 + 7))

/-- A report word: pending set, priority code, report sequence (R161, 10.9). -/
def reportWord (pendingSet : BitVec 12) (code : BitVec 4) (seq : BitVec 16) : Word :=
  (seq ++ code ++ pendingSet : BitVec (16 + 4 + 12))

/-- The filling index of S0: the target, 6 for SHED, 7 for no pass (10.7). -/
def fillingCode (p : Option FillPass) : BitVec 3 :=
  match p with
  | none => 7
  | some q =>
    match q.target with
    | .buffer b => BitVec.ofNat 3 b
    | .shed => 6

/-- S0 of a channel with update count `count` (10.7, R182). -/
def wordS0 (c : Channel) (count : BitVec 8) : Word :=
  (0#5 ++ BitVec.ofBool c.halted ++ c.cond.code ++ 0#1 ++ indexCode c.held ++ 0#1 ++ fillingCode c.pass ++ 0#1 ++
    indexCode (c.pend.map (·.buf)) ++ 0#1 ++ indexCode c.live ++ count :
    BitVec (5 + 1 + 2 + 1 + 3 + 1 + 3 + 1 + 3 + 1 + 3 + 8))

/-- S0 to S3 of a channel, S0 with count 0 (10.7, R182). -/
def chanBlock (c : Channel) : List Word :=
  [wordS0 c 0, c.pubCount, c.lastPub, (0#16 ++ c.sig : BitVec (16 + 16))]

/-- G0 of a group with update count `count` (10.7, R34, R182). -/
def wordG0 (g : Group) (count : BitVec 8) : Word :=
  let tainted := match g.pin with
    | some p => p.tainted
    | none => false
  let gathering := g.desc.mode == some .gathered && g.gather.isSome
  (0#21 ++ BitVec.ofBool gathering ++ BitVec.ofBool tainted ++ BitVec.ofBool g.pin.isSome ++ count :
    BitVec (21 + 1 + 1 + 1 + 8))

/-- G1 of a group, by its mode (R34, R182). -/
def wordG1 (g : Group) : Word :=
  match g.desc.mode with
  | some .immediate => (g.pin.map (·.openTime)).getD 0
  | some .timed => g.nextFrame.getD 0
  | some .gathered => (g.gather.map (·.start)).getD 0
  | none => 0

/-- G0 and G1 of a group, G0 with count 0. -/
def groupBlock (g : Group) : List Word := [wordG0 g 0, wordG1 g]

end Sys2Proof.Machine
end

