-- ==== Sys2Proof/Machine/Flags.lean ====
section
/-! DEFINITION. Computations of flag-like values: check bits (chapter 5) and attention cause sets (chapter 8). -/
namespace Sys2Proof.Machine

/-! ### Check bits (R101, R102) -/

/-- Whether a byte holds an odd number of ones. -/
def oddOnes (b : BitVec 8) : Bool :=
  b.getLsbD 0 ^^ b.getLsbD 1 ^^ b.getLsbD 2 ^^ b.getLsbD 3 ^^ b.getLsbD 4 ^^ b.getLsbD 5 ^^ b.getLsbD 6 ^^ b.getLsbD 7

/-- R101: "The check bit of the lane is set so that the eight data bits of the lane and its check bit together hold an odd
number of ones." -/
def checkBit (b : BitVec 8) : Bool := !oddOnes b

/-- R102: "A lane is in error when its eight data bits and its check bit together hold an even number of ones." -/
def laneInError (b : BitVec 8) (chk : Bool) : Bool := oddOnes b == chk

/-- The byte of lane `i`, data bits 8i + 7 to 8i. -/
def laneByte (w : Word) (i : Nat) : BitVec 8 := w.extractLsb' (8 * i) 8

/-- The word of four lane bytes. -/
def wordOfLanes (b0 b1 b2 b3 : BitVec 8) : Word := (b3 ++ b2 ++ b1 ++ b0 : BitVec (8 + 8 + 8 + 8))

/-- M_PAR for a word that is written (R97, R101): the check bit of lane i on bit i. -/
def parityBits (w : Word) : BitVec 4 :=
  (BitVec.ofBool (checkBit (laneByte w 3)) ++ BitVec.ofBool (checkBit (laneByte w 2)) ++
    BitVec.ofBool (checkBit (laneByte w 1)) ++ BitVec.ofBool (checkBit (laneByte w 0)) : BitVec (1 + 1 + 1 + 1))

/-! ### Attention causes (R154 to R157) -/

/-- The twelve attention causes (R154). -/
inductive Cause where
  | holdover
  | parity
  | violation
  | fillFault
  | halted
  | stale
  | pinFault
  | commit
  | journalLost
  | indexFault
  | publish
  | journal
  deriving DecidableEq, Repr

/-- The number of a cause, which is also its priority (R154). -/
def Cause.number : Cause → Nat
  | .holdover => 0
  | .parity => 1
  | .violation => 2
  | .fillFault => 3
  | .halted => 4
  | .stale => 5
  | .pinFault => 6
  | .commit => 7
  | .journalLost => 8
  | .indexFault => 9
  | .publish => 10
  | .journal => 11

/-- R154: "bit n stands for cause n". -/
def Cause.bit (c : Cause) : BitVec 12 := 1#12 <<< c.number

/-- The event causes (R154): PARITY, VIOLATION, FILL_FAULT, PIN_FAULT, COMMIT, JOURNAL_LOST, INDEX_FAULT, PUBLISH. -/
def eventCauses : BitVec 12 := 0x7CE

/-- The level causes (R154): HOLDOVER, HALTED, STALE, JOURNAL. -/
def levelCauses : BitVec 12 := 0x831

/-- The installed channel at index `n`, if there is one (R1). -/
def State.channel? (s : State) (n : Nat) : Option Channel := (s.channels[n]?).getD none

/-- The installed group at index `g`, if there is one (R30). -/
def State.group? (s : State) (g : Nat) : Option Group := (s.groups[g]?).getD none

/-- The channel numbers 0 to 23, and the group numbers. -/
def indices : List Nat := List.range 24

/-- R156: "any installed channel produced by port x is halted". -/
def anyHalted (s : State) (p : Port) : Bool :=
  indices.any fun n =>
    match s.channel? n with
    | some c => c.halted && c.desc.producer == p
    | none => false

/-- R156, R69: "any installed channel consumed by port x is STALE". -/
def anyStale (s : State) (p : Port) : Bool :=
  indices.any fun n =>
    match s.channel? n with
    | some c => c.cond == .stale && c.desc.consumer == p
    | none => false

/-- R147: "the H of port x's journal is not equal to its Rd". -/
def journalHolds (s : State) (p : Port) : Bool := (s.journals.get p).h != (s.journals.get p).rd

/-- The set with `c` alone when `b`, else the empty set. -/
def causeIf (c : Cause) (b : Bool) : BitVec 12 := if b then c.bit else 0

/-- R156: the level causes of port `p` whose conditions hold. -/
def levelSet (s : State) (p : Port) : BitVec 12 :=
  causeIf .holdover (s.partState == .holdover) ||| causeIf .halted (anyHalted s p) ||| causeIf .stale (anyStale s p) |||
    causeIf .journal (journalHolds s p)

/-- R157: "the set of its latched event causes together with its level causes whose conditions hold". -/
def pendingSet (s : State) (p : Port) : BitVec 12 := (s.attention.get p).latched ||| levelSet s p

/-- R161: "the number of the lowest-numbered cause that is both in that pending set and in the enable set at the grant; 15
when there is none". -/
def priorityCode (pending enable : BitVec 12) : BitVec 4 :=
  match (List.range 12).find? fun n => (pending &&& enable).getLsbD n with
  | some n => BitVec.ofNat 4 n
  | none => 15

/-- R163: asserted exactly while the reported set "shares a cause with its current enable set". -/
def lineFor (reported enable : BitVec 12) : Bool := reported &&& enable != 0

end Sys2Proof.Machine
end

