-- ==== Sys2Proof/Machine/Ops.lean ====
section
/-! DEFINITION. The shared operations: cells and words of the SRAM, changes of a channel, a group, a port, marks of Mirror
items, the raising of a cause, the offer of a record to a journal, deadlines. What the spec calls a fault is reported by
`raise` and `offer` here, once for every event. -/
namespace Sys2Proof.Machine

/-! ### Cells in canonical form

A list of cells holds a value for each key: keys strictly rise, and no cell holds the value that an unlisted key reads as.
Every operation takes that value, `dflt`, as its first argument. -/

/-- The value at key `a`. -/
def cellRead {α : Type} (dflt : α) : List (Nat × α) → Nat → α
  | [], _ => dflt
  | (k, v) :: rest, a => if k = a then v else if a < k then dflt else cellRead dflt rest a

/-- The list with the value at key `a` made `v`, in canonical form. -/
def cellWrite {α : Type} [DecidableEq α] (dflt : α) : List (Nat × α) → Nat → α → List (Nat × α)
  | [], a, v => if v = dflt then [] else [(a, v)]
  | (k, w) :: rest, a, v =>
    if a < k then (if v = dflt then (k, w) :: rest else (a, v) :: (k, w) :: rest)
    else if a = k then (if v = dflt then rest else (a, v) :: rest)
    else (k, w) :: cellWrite dflt rest a v

/-- Every key of the list is above `lo`, the keys rise strictly, and no cell holds `dflt`. -/
def cellsAbove {α : Type} [DecidableEq α] (dflt : α) : Nat → List (Nat × α) → Bool
  | _, [] => true
  | lo, (k, v) :: rest => decide (lo ≤ k) && decide (v ≠ dflt) && cellsAbove dflt (k + 1) rest

/-- The canonical form. -/
def cellsWf {α : Type} [DecidableEq α] (dflt : α) (m : List (Nat × α)) : Bool := cellsAbove dflt 0 m

/-! ### Words of the SRAM -/

/-- The key of lane `i` of the word at physical address `a`. -/
def laneKey (a : PhysAddr) (i : Nat) : Nat := 4 * a.toNat + i

/-- The data byte of lane `i` of word `a`. -/
def Sram.byte (m : Sram) (a : PhysAddr) (i : Nat) : BitVec 8 := cellRead Config.unwrittenByte m.data (laneKey a i)

/-- The check bit of lane `i` of word `a`. -/
def Sram.chk (m : Sram) (a : PhysAddr) (i : Nat) : Bool := cellRead Config.unwrittenCheck m.check (laneKey a i)

/-- The data word at physical address `a`, its four lanes together. -/
def Sram.word (m : Sram) (a : PhysAddr) : Word := wordOfLanes (m.byte a 0) (m.byte a 1) (m.byte a 2) (m.byte a 3)

/-- R102: the lanes of word `a` whose data and check bit disagree. -/
def Sram.errors (m : Sram) (a : PhysAddr) : Lanes :=
  (BitVec.ofBool (laneInError (m.byte a 3) (m.chk a 3)) ++ BitVec.ofBool (laneInError (m.byte a 2) (m.chk a 2)) ++
    BitVec.ofBool (laneInError (m.byte a 1) (m.chk a 1)) ++ BitVec.ofBool (laneInError (m.byte a 0) (m.chk a 0)) :
    BitVec (1 + 1 + 1 + 1))

/-- The SRAM with byte `b` and check bit `c` in lane `i` of word `a`. -/
def Sram.setLane (m : Sram) (a : PhysAddr) (i : Nat) (b : BitVec 8) (c : Bool) : Sram :=
  { data := cellWrite Config.unwrittenByte m.data (laneKey a i) b
    check := cellWrite Config.unwrittenCheck m.check (laneKey a i) c }

/-- One lane of a write: if the lane is written, its byte and its generated check bit (R101). -/
def Sram.writeLane (m : Sram) (a : PhysAddr) (l : Lanes) (v : Word) (i : Nat) : Sram :=
  if l.getLsbD i then m.setLane a i (laneByte v i) (checkBit (laneByte v i)) else m

/-- R97, R101: a write of the lanes `l` of `v` to word `a`; unset lanes keep their data and their check bits. -/
def Sram.write (m : Sram) (a : PhysAddr) (l : Lanes) (v : Word) : Sram :=
  [0, 1, 2, 3].foldl (fun m i => m.writeLane a l v i) m

/-- The canonical form of both lists. -/
def Sram.wf (m : Sram) : Bool := cellsWf Config.unwrittenByte m.data && cellsWf Config.unwrittenCheck m.check

/-! ### Channels, groups, ports -/

/-- The state with channel place `n` changed by `f`, if a channel is installed there. -/
def State.modChannel (s : State) (n : Nat) (f : Channel → Channel) : State :=
  { s with channels := s.channels.setIfInBounds n ((s.channel? n).map f) }

/-- The state with group place `g` changed by `f`, if a group is installed there. -/
def State.modGroup (s : State) (g : Nat) (f : Group → Group) : State :=
  { s with groups := s.groups.setIfInBounds g ((s.group? g).map f) }

/-- The access state of port `p`. -/
def State.access (s : State) (p : Port) : AccessState := (s.ports.get p).access

/-- The state with the access state of port `p` made `a`. -/
def State.setAccess (s : State) (p : Port) (a : AccessState) : State :=
  { s with ports := s.ports.modify p fun q => { q with access := a } }

/-! ### Marks of Mirror items (R132) -/

/-- A number for each item; the dirty list is kept in its order, so that equal sets are equal lists. -/
def MirrorItem.code : MirrorItem → Nat
  | .part n => n
  | .report .A => 1000
  | .report .B => 1001
  | .head .A => 1002
  | .head .B => 1003
  | .slot .A k => 1100 + k.toNat
  | .slot .B k => 1300 + k.toNat
  | .chanBlock n => 2 * n + 2000
  | .groupBlock n => 2 * n + 2001

/-- The list with item `i` in its place, once. -/
def insertItem (i : MirrorItem) : List MirrorItem → List MirrorItem
  | [] => [i]
  | j :: rest =>
    if i = j then j :: rest else if i.code < j.code then i :: j :: rest else j :: insertItem i rest

/-- R132: the internal value of item `i` changes: a clean item becomes dirty, a dirty one stays dirty, one in flight is
marked changed. -/
def Mirror.mark (m : Mirror) (i : MirrorItem) : Mirror :=
  match m.flight with
  | some f =>
    if f.item = i then { m with flight := some { f with changed := true } }
    else { m with dirty := insertItem i m.dirty }
  | none => { m with dirty := insertItem i m.dirty }

/-- R126: the block of a channel or group that ends: "If its block is dirty at the install, the block becomes clean without
being written. If it is in flight, its sequence completes with the content captured at its first grant"; it is then no
longer written for what has ended (notes/assumptions/15.md). -/
def Mirror.unmark (m : Mirror) (i : MirrorItem) : Mirror :=
  { m with
    dirty := m.dirty.filter (· ≠ i)
    passed := m.passed.filter fun q => q.1 ≠ i
    flight := m.flight.map fun f => if f.item = i then { f with changed := false } else f }

/-- The state with item `i` marked. -/
def State.mark (s : State) (i : MirrorItem) : State := { s with mirror := s.mirror.mark i }

/-- The state with each of the items marked, in order. -/
def State.markAll (s : State) (is : List MirrorItem) : State := is.foldl State.mark s

/-! ### Causes (R155) -/

/-- R155: a raise of event cause `c` for port `p` latches it. That the report word is then marked dirty where the pending
set has changed is `noteReports`, once for each event (R157). -/
def State.raise (s : State) (p : Port) (c : Cause) : State :=
  { s with attention := s.attention.modify p fun a => { a with latched := a.latched ||| c.bit } }

/-- A raise for both ports. -/
def State.raiseBoth (s : State) (c : Cause) : State := (s.raise .A c).raise .B c

/-! ### Journals (R136 to R142) -/

/-- R137: "The count of unread records of a journal is (W - Rd) modulo 128". -/
def Journal.unread (j : Journal) : Nat := (j.w - j.rd).toNat

/-- R137: "the count of free slots is 127 less that count". -/
def Journal.free (j : Journal) : Nat := 127 - j.unread

/-- R142: the record takes the slot at W, and W advances by one modulo 128. -/
def Journal.put (j : Journal) (r : Record) : Journal :=
  { j with ring := j.ring.setIfInBounds j.w.toNat r, w := j.w + 1 }

/-- R138, R139: the journal after a record is offered at clock value `now`. -/
def Journal.offer (j : Journal) (r : Record) (now : Word) : Journal :=
  if j.lost = 0 then
    if 1 ≤ j.free then j.put r else { j with lost := 1, lossTime := now }
  else if 2 ≤ j.free then { (j.put (gapRecord j.lost j.lossTime now)) with lost := 0 }.put r
  else if j.lost = 0xFFFF then j
  else { j with lost := j.lost + 1 }

/-- The slots that an offer has written: from the old W up to the new. -/
def slotsWritten (j j' : Journal) : List (BitVec 7) := (List.range (j'.w - j.w).toNat).map fun i => j.w + BitVec.ofNat 7 i

/-- R138: an offer takes the lost count from 0 to 1, the loss for which JOURNAL_LOST is raised. -/
def lossBegins (j j' : Journal) : Bool := j.lost == 0 && j'.lost != 0

/-- R142, R140: the items an offer marks: each slot written, and the head word where a record was written or L changed. -/
def offerMarks (p : Port) (j j' : Journal) : List MirrorItem :=
  (slotsWritten j j').map (.slot p) ++ (if j.w ≠ j'.w ∨ j.lost ≠ j'.lost then [.head p] else [])

/-- R138, R139, R142: a record is offered to journal `p`: it is written, or counted as lost. -/
def State.offer (s : State) (p : Port) (r : Record) : State :=
  let j := s.journals.get p
  let j' := j.offer r s.clock
  { s with
    journals := s.journals.set p j'
    attention := if lossBegins j j' then (s.raise p .journalLost).attention else s.attention
    mirror := (s.markAll (offerMarks p j j')).mirror }

/-- A record that goes to both journals: two offers (R136). -/
def State.offerBoth (s : State) (r : Record) : State := (s.offer .A r).offer .B r

/-! ### Deadlines (R59, R60, R62) -/

/-- R59: the deadline of a limit field; "A limit field of 0 means that no deadline of that kind is formed". -/
def formDeadline (start : Word) (limit : BitVec 16) : Option Deadline :=
  if limit = 0 then none else some { start := start, limit := limit }

/-- R60: reached "at the tick on which (clock - start) modulo 2^32 equals its limit". -/
def Deadline.reached (d : Deadline) (now : Word) : Bool := now - d.start == d.limit.setWidth 32

/-- Whether a deadline is present and reached. -/
def isReached (d : Option Deadline) (now : Word) : Bool :=
  match d with
  | some x => x.reached now
  | none => false

/-- R62: a deadline re-formed at an install under a new limit, with the start it keeps or takes: cancelled, kept to the new
limit, or due at the first tick after the install. -/
def reformDeadline (start : Word) (limit : BitVec 16) (now : Word) : Option Deadline :=
  if limit = 0 then none
  else if (now - start).toNat < limit.toNat then some { start := start, limit := limit }
  else some { start := now, limit := 1 }

/-- R62 for a deadline of a carried pass, pin or gather: the start of the running deadline, or `openTime` where there was
none under a limit of 0. "A limit that is unchanged at the install gives a deadline identical to the one it replaces." -/
def carryDeadline (d : Option Deadline) (openTime : Word) (oldLimit newLimit : BitVec 16) (now : Word) : Option Deadline :=
  if oldLimit = newLimit then d
  else reformDeadline ((d.map (·.start)).getD openTime) newLimit now

end Sys2Proof.Machine
end

