-- ==== Sys2Proof/Machine/Exchange.lean ====
section
/-! DEFINITION. The exchange unit (chapters 1 to 3): buffer roles, fill passes, publication, groups, gathers, read pins,
halting, freshness. Each definition changes the runtime records, marks the status blocks its rule marks, offers the
records and raises the causes its rule names. -/
namespace Sys2Proof.Machine

/-! ### Buffer roles (R4, R5) -/

/-- The roles of R4. -/
inductive Role where
  | filling
  | pending
  | live
  | held
  | free
  deriving DecidableEq, Repr

/-- R4: the role of buffer `b`, derived from the runtime record. -/
def Channel.role (c : Channel) (b : Nat) : Role :=
  if c.pass.map (·.target) = some (.buffer b) then .filling
  else if c.pend.map (·.buf) = some b then .pending
  else if c.live = some b then .live
  else if c.held = some b then .held
  else .free

/-- R5: "the lowest-index buffer whose role is FREE"; "If no buffer of the channel is FREE at that moment, the pass opens
with target SHED." -/
def Channel.chooseTarget (c : Channel) : Target :=
  match (List.range c.desc.depth).find? fun b => c.role b = .free with
  | some b => .buffer b
  | none => .shed

/-! ### Windows and chains (R1, R31) -/

/-- R1: the physical address of the word at `off` in buffer `b`. -/
def ChanDesc.bufferWord (d : ChanDesc) (b off : Nat) : PhysAddr := d.base b + BitVec.ofNat 17 off

/-- R31: the chain that begins at member `m`; `next` gives the next-member field of an installed channel. At most `fuel`
members (a chain has at most 24). -/
def chainFrom (next : Nat → Option Nat) : Nat → Nat → List Nat
  | 0, _ => []
  | fuel + 1, m =>
    match next m with
    | none => []
    | some k => if k = chainEnd then [m] else m :: chainFrom next fuel k

/-- The next-member field of the installed channel `n`. -/
def State.nextOf (s : State) (n : Nat) : Option Nat := (s.channel? n).map (·.desc.nextMember)

/-- R31: the members of installed group `g` in chain order. -/
def State.members (s : State) (g : Nat) : List Nat :=
  match s.group? g with
  | some gr => chainFrom s.nextOf 24 gr.desc.first
  | none => []

/-- R31: "That last member is the closing member of the group." -/
def State.isClosingMember (s : State) (g n : Nat) : Bool := (s.members g).getLast? == some n

/-- R30: "The producer of the group is therefore one port": that of its first member. -/
def State.groupProducer (s : State) (g : Nat) : Port :=
  match s.group? g with
  | some gr =>
    match s.channel? gr.desc.first with
    | some c => c.desc.producer
    | none => .A
  | none => .A

/-- R30: the group's consumer is the other port. -/
def State.groupConsumer (s : State) (g : Nat) : Port := (s.groupProducer g).other

/-- The mode of the group that channel `n` names. -/
def State.modeOfChannel (s : State) (c : Channel) : Option Mode :=
  match s.group? c.desc.group with
  | some gr => gr.desc.mode
  | none => none

/-! ### Publication (R19, R20) -/

/-- R19 steps 1 to 4: the record of a channel whose buffer `b` becomes live at clock value `now`. -/
def Channel.published (c : Channel) (b : Nat) (now : Word) : Channel :=
  { c with
    live := some b
    pend := if c.pend.map (·.buf) = some b then none else c.pend
    pubCount := c.pubCount + 1
    lastPub := now
    cond := .fresh
    freshDl := formDeadline now c.desc.freshLimit }

/-- R20: the PUBLISHED record of buffer `b` of channel `n`. -/
def publishedRecord (n b : Nat) (seq closeTime now : Word) : Record :=
  mkRecord .published n (some b) 0 seq closeTime now

/-- R19: buffer `b` of channel `n`, filled by pass `seq` that closed at `closeTime`, is published. -/
def publish (n b : Nat) (seq closeTime : Word) (s : State) : State :=
  match s.channel? n with
  | none => s
  | some c =>
    let s1 := (s.modChannel n fun c => c.published b s.clock).mark (.chanBlock n)
    if c.desc.notify then
      (s1.offer c.desc.consumer (publishedRecord n b seq closeTime s.clock)).raise c.desc.consumer .publish
    else s1

/-- The publication of member `n`'s pending buffer, if it has one (R37, R40, R41: "passed over" otherwise). -/
def publishPending (s : State) (n : Nat) : State :=
  match (s.channel? n).bind (·.pend) with
  | some p => publish n p.buf p.seq p.closeTime s
  | none => s

/-- The publication of the pending members of group `g`, "one after another in chain order". -/
def publishMembers (g : Nat) (s : State) : State := (s.members g).foldl publishPending s

/-- Whether member `n` has a pending buffer. -/
def State.hasPending (s : State) (n : Nat) : Bool :=
  match s.channel? n with
  | some c => c.pend.isSome
  | none => false

/-! ### Gathers (R39 to R41) -/

/-- R39: a GATHERED group that is not gathering starts a gather. -/
def startGather (g : Nat) (s : State) : State :=
  match s.group? g with
  | some gr =>
    if gr.gather.isNone then
      (s.modGroup g fun gr =>
        { gr with gather := some { start := s.clock, deadline := formDeadline s.clock gr.desc.window } }).mark (.groupBlock g)
    else s
  | none => s

/-- The gather of group `g` ends. -/
def endGather (g : Nat) (s : State) : State :=
  (s.modGroup g fun gr => { gr with gather := none }).mark (.groupBlock g)

/-- R40: if every member has a pending buffer, the gather completes with a full publication. -/
def completeGather (g : Nat) (s : State) : State :=
  if (s.members g).all s.hasPending then endGather g (publishMembers g s) else s

/-- R35: a member of group `g` has gained a pending buffer. A TIMED group does nothing at once; a GATHERED group may start
a gather, complete one, or neither (R39, R40). -/
def memberGained (g : Nat) (s : State) : State :=
  match (s.group? g).bind (·.desc.mode) with
  | some .gathered => completeGather g (startGather g s)
  | _ => s

/-! ### Fill passes (R6, R9 to R14) -/

/-- R6: the record of a channel whose pass opens at `now`. -/
def Channel.opened (c : Channel) (now : Word) : Channel :=
  { c with
    fillSeq := c.fillSeq + 1
    pass := some
      { target := c.chooseTarget
        seq := c.fillSeq + 1
        openTime := now
        deadline := formDeadline now c.desc.fillLimit } }

/-- R6: the part is RUNNING, the channel is not halted, and it has no fill pass open. -/
def opensPass (s : State) (c : Channel) : Bool :=
  s.partState == .running && !c.halted && c.pass.isNone

/-- R6: a producer write taken in channel `n`'s window opens a pass where it may. -/
def openPass (n : Nat) (s : State) : State :=
  match s.channel? n with
  | some c =>
    if opensPass s c then (s.modChannel n fun c => c.opened s.clock).mark (.chanBlock n) else s
  | none => s

/-- R9: the fill deadline of channel `n`'s open pass, if present, is cancelled. -/
def cancelFillDeadline (n : Nat) (s : State) : State :=
  s.modChannel n fun c => { c with pass := c.pass.map fun p => { p with deadline := none } }

/-- R22: channel `n` halts, for the reason SHED or EXPIRED, by pass `p`. -/
def haltChannel (n : Nat) (producer : Port) (expired : Bool) (p : FillPass) (s : State) : State :=
  ((s.modChannel n fun c => { c with halted := true }).offer producer
    (mkRecord .halted n none (if expired then flagBit 1 true else flagBit 0 true) p.seq p.openTime s.clock)).mark
      (.chanBlock n)

/-- R13: a SHED pass closes. -/
def closeShed (n : Nat) (c : Channel) (p : FillPass) (s : State) : State :=
  let s1 := (s.modChannel n fun c => { c with pass := none }).mark (.chanBlock n)
  let s2 := (s1.offer c.desc.producer (mkRecord .shed n none 0 p.seq p.openTime s.clock)).raise c.desc.producer .fillFault
  if c.desc.stopOnError then haltChannel n c.desc.producer false p s2 else s2

/-- R12: the pending buffer of channel `n`, if present, is superseded by a pass that closes now. -/
def supersede (n : Nat) (c : Channel) (s : State) : State :=
  match c.pend with
  | some q => s.offer c.desc.producer (mkRecord .superseded n (some q.buf) 0 q.seq q.closeTime s.clock)
  | none => s

/-- R11 in a TIMED or GATHERED group: buffer `b` becomes pending, an earlier pending buffer is superseded first (R12), and
the group is told (R35). -/
def closeIntoPending (n b : Nat) (c : Channel) (p : FillPass) (s : State) : State :=
  let s1 := (s.modChannel n fun c => { c with pass := none }).mark (.chanBlock n)
  let s2 := (supersede n c s1).modChannel n fun c =>
    { c with pend := some { buf := b, seq := p.seq, openTime := p.openTime, closeTime := s.clock } }
  memberGained c.desc.group s2

/-- R11 in an IMMEDIATE group: buffer `b` is published at once. -/
def closeIntoLive (n b : Nat) (p : FillPass) (s : State) : State :=
  publish n b p.seq s.clock ((s.modChannel n fun c => { c with pass := none }).mark (.chanBlock n))

/-- R10: the completion of a closing write of the pass with sequence number `seq`: "If that pass is still open, it closes
now"; "If that pass is no longer open, the completion closes nothing and changes no runtime state." -/
def closePass (n : Nat) (seq : Word) (s : State) : State :=
  match s.channel? n with
  | none => s
  | some c =>
    match c.pass with
    | none => s
    | some p =>
      if p.seq = seq then
        match p.target with
        | .shed => closeShed n c p s
        | .buffer b =>
          if s.modeOfChannel c = some .immediate then closeIntoLive n b p s else closeIntoPending n b c p s
      else s

/-- R14: the fill deadline of channel `n`'s open pass is reached. -/
def expirePass (n : Nat) (s : State) : State :=
  match s.channel? n with
  | none => s
  | some c =>
    match c.pass with
    | none => s
    | some p =>
      let s1 := (s.modChannel n fun c => { c with pass := none }).mark (.chanBlock n)
      let s2 := (s1.offer c.desc.producer
        (mkRecord .fillExpired n p.target.buffer? (flagBit 0 (p.target == .shed)) p.seq p.openTime s.clock)).raise
          c.desc.producer .fillFault
      if c.desc.stopOnError then haltChannel n c.desc.producer true p s2 else s2

/-! ### Rearm (R24) -/

/-- R24: one channel of a REARM take by port `x`: halted is cleared where the channel is installed, produced by `x`, halted,
and its bit is set. -/
def rearmOne (x : Port) (v : Word) (s : State) (n : Nat) : State :=
  match s.channel? n with
  | some c =>
    if v.getLsbD n && c.desc.producer == x && c.halted then
      (s.modChannel n fun c => { c with halted := false }).mark (.chanBlock n)
    else s
  | none => s

/-- R24: a REARM take by port `x` of value `v`; bits 24 to 31 have no effect. -/
def rearm (x : Port) (v : Word) (s : State) : State := indices.foldl (rearmOne x v) s

/-! ### Producer accesses (R6 to R9, R17) -/

/-- R8: the part is in HOLDOVER or the channel is halted, so a producer write is dropped whatever pass is open. -/
def writeBarred (s : State) (c : Channel) : Bool := s.partState == .holdover || c.halted

/-- R7, R8: the steering of a producer write at offset `off`, from the record as it stands after any opening. -/
def steerWrite (s : State) (n off : Nat) : ChannelAccess :=
  match s.channel? n with
  | none => { ch := n, side := .producer, steer := .nowhere, passSeq := none, closing := false }
  | some c =>
    let closing := off + 1 == c.desc.len
    if writeBarred s c then { ch := n, side := .producer, steer := .nowhere, passSeq := none, closing := closing }
    else
      match c.pass with
      | none => { ch := n, side := .producer, steer := .nowhere, passSeq := none, closing := closing }
      | some p =>
        { ch := n
          side := .producer
          steer := match p.target with
            | .buffer b => .buffer b (c.desc.bufferWord b off)
            | .shed => .nowhere
          passSeq := some p.seq
          closing := closing }

/-- R6 to R9: a producer write taken at offset `off` of channel `n`: it may open a pass, it is steered, and a closing-word
write in an open pass cancels the fill deadline. -/
def takeProducerWrite (n off : Nat) (s : State) : State × ChannelAccess :=
  let s1 := openPass n s
  let a := steerWrite s1 n off
  (if a.closing && a.passSeq.isSome then cancelFillDeadline n s1 else s1, a)

/-- R17: the buffer a producer read is served from, if any: the target of an open non-shed pass, else the live buffer. -/
def producerReadBuffer (s : State) (c : Channel) : Option Nat :=
  if writeBarred s c then c.live
  else
    match c.pass with
    | some p =>
      match p.target with
      | .buffer b => some b
      | .shed => c.live
    | none => c.live

/-- R17: the steering of a producer read at offset `off` of channel `n`. -/
def steerProducerRead (s : State) (n off : Nat) : ChannelAccess :=
  { ch := n
    side := .producer
    steer := match s.channel? n with
      | some c =>
        match producerReadBuffer s c with
        | some b => .buffer b (c.desc.bufferWord b off)
        | none => .nowhere
      | none => .nowhere
    passSeq := none
    closing := false }

/-! ### Read pins (R44 to R50) -/

/-- R44: the record of a member when a pin opens. -/
def Channel.pinned (c : Channel) : Channel :=
  { c with held := c.live, blank := c.cond == .stale && c.desc.blankPolicy }

/-- R44: one member when a pin opens; its status block is marked if its held buffer changed. -/
def pinMember (s : State) (n : Nat) : State :=
  match s.channel? n with
  | some c =>
    let s1 := s.modChannel n Channel.pinned
    if c.held = c.live then s1 else s1.mark (.chanBlock n)
  | none => s

/-- R44: a pin opens over group `g`, if it has none. -/
def openPin (g : Nat) (s : State) : State :=
  match s.group? g with
  | some gr =>
    if gr.pin.isNone then
      (s.members g).foldl pinMember
        ((s.modGroup g fun gr =>
          { gr with
            pin := some { openTime := s.clock, deadline := formDeadline s.clock gr.desc.holdLimit, tainted := false } }).mark
              (.groupBlock g))
    else s
  | none => s

/-- The held buffer of member `n` is not its live buffer: it becomes FREE when the pin ends. -/
def State.holdsOld (s : State) (n : Nat) : Bool :=
  match s.channel? n with
  | some c => c.held.isSome && c.held != c.live
  | none => false

/-- R48 steps 2 and 3, R50 step 1: one member when a pin ends; its status block is marked if its held buffer changed. -/
def unpinMember (s : State) (n : Nat) : State :=
  match s.channel? n with
  | some c =>
    if c.held.isSome then (s.modChannel n fun c => { c with held := none }).mark (.chanBlock n) else s
  | none => s

/-- The members of group `g` lose their held buffers and the pin field becomes absent (R48, R50, R128). -/
def dropPin (g : Nat) (s : State) : State :=
  ((s.members g).foldl unpinMember (s.modGroup g fun gr => { gr with pin := none })).mark (.groupBlock g)

/-- R53: the mask of the members whose held buffer becomes FREE. -/
def State.freedMask (s : State) (g : Nat) : Word := channelMask ((s.members g).filter s.holdsOld)

/-- R48: the pin of group `g`, if open, closes. -/
def closePin (g : Nat) (s : State) : State :=
  match (s.group? g).bind (·.pin) with
  | none => s
  | some p =>
    let consumer := s.groupConsumer g
    let s1 := dropPin g s
    if p.tainted then
      (s1.offer consumer (mkRecord .pinTainted g none 0 (s.freedMask g) p.openTime s.clock)).raise consumer .pinFault
    else s1

/-- The PIN_EXPIRED record of a release (R50, R128): flag 0 LIMIT, 1 INSTALL, 2 TAINTED. -/
def pinExpiredRecord (g : Nat) (install : Bool) (p : Pin) (mask now : Word) : Record :=
  mkRecord .pinExpired g none (flagBit 0 (!install) ||| flagBit 1 install ||| flagBit 2 p.tainted) mask p.openTime now

/-- R50, R128: the pin of group `g`, if open, is released, with its record and PIN_FAULT. -/
def releasePin (g : Nat) (install : Bool) (s : State) : State :=
  match (s.group? g).bind (·.pin) with
  | none => s
  | some p =>
    let consumer := s.groupConsumer g
    ((dropPin g s).offer consumer (pinExpiredRecord g install p (s.freedMask g) s.clock)).raise consumer .pinFault

/-- R49: the pin of group `g`, if open, is tainted; a pin already tainted stays so. -/
def taintPin (g : Nat) (s : State) : State :=
  match (s.group? g).bind (·.pin) with
  | none => s
  | some p =>
    if p.tainted then s
    else (s.modGroup g fun gr => { gr with pin := gr.pin.map fun q => { q with tainted := true } }).mark (.groupBlock g)

/-- R47: the hold deadline of group `g`'s pin, if present, is cancelled. -/
def cancelHoldDeadline (g : Nat) (s : State) : State :=
  s.modGroup g fun gr => { gr with pin := gr.pin.map fun p => { p with deadline := none } }

/-- R46: the steering of a consumer read at offset `off` of channel `n`, from the record as it stands with the pin open. -/
def steerConsumerRead (s : State) (n off : Nat) : ChannelAccess :=
  match s.channel? n with
  | none => { ch := n, side := .consumer, steer := .nowhere, passSeq := none, closing := false }
  | some c =>
    { ch := n
      side := .consumer
      steer := if c.blank then .nowhere
        else match c.held with
          | some b => .buffer b (c.desc.bufferWord b off)
          | none => .nowhere
      passSeq := none
      closing := s.isClosingMember c.desc.group n && off + 1 == c.desc.len }

/-- R44, R46, R47: a consumer read taken at offset `off` of channel `n`: a pin opens where none is open, the read is steered,
and a read of the closing word of the closing member cancels the hold deadline. -/
def takeConsumerRead (n off : Nat) (s : State) : State × ChannelAccess :=
  match s.channel? n with
  | none => (s, steerConsumerRead s n off)
  | some c =>
    let s1 := openPin c.desc.group s
    let a := steerConsumerRead s1 n off
    (if a.closing then cancelHoldDeadline c.desc.group s1 else s1, a)

/-! ### The exchange unit at a completion (R93 step 2) -/

/-- R10, R48, R49: what the exchange unit does at the completion of a channel-window access; `failed` is whether a read
failed its parity check. -/
def exchangeCompletion (a : ChannelAccess) (wr failed : Bool) (s : State) : State :=
  match a.side with
  | .producer =>
    if wr && a.closing then
      match a.passSeq with
      | some seq => closePass a.ch seq s
      | none => s
    else s
  | .consumer =>
    match s.channel? a.ch with
    | none => s
    | some c =>
      let s1 := if failed then taintPin c.desc.group s else s
      if a.closing then closePin c.desc.group s1 else s1

/-! ### Freshness, frame ticks, gather deadlines (R68, R37, R41) -/

/-- R68: the freshness deadline of channel `n` is reached. -/
def becomeStale (n : Nat) (s : State) : State :=
  match s.channel? n with
  | none => s
  | some c =>
    ((s.modChannel n fun c => { c with cond := .stale, freshDl := none }).mark (.chanBlock n)).offer c.desc.consumer
      (mkRecord .stale n c.live (flagBit 0 (c.cond == .empty)) c.pubCount c.lastPub s.clock)

/-- R37, R65: the frame tick of TIMED group `g`. -/
def frameTick (g : Nat) (s : State) : State :=
  let s1 := publishMembers g s
  (s1.modGroup g fun gr =>
    { gr with nextFrame := gr.nextFrame.map fun t => t + gr.desc.period.setWidth 32 }).mark (.groupBlock g)

/-- R41: the gather deadline of group `g` is reached: a partial publication, then the GROUP_PARTIAL record. -/
def partialPublication (g : Nat) (s : State) : State :=
  match (s.group? g).bind (·.gather) with
  | none => s
  | some q =>
    let published := (s.members g).filter s.hasPending
    endGather g ((publishMembers g s).offer (s.groupConsumer g)
      (mkRecord .groupPartial g none 0 (channelMask published) q.start s.clock))

end Sys2Proof.Machine
end

