-- ==== Sys2Proof/Machine/Loader.lean ====
section
/-! DEFINITION. The Loader (sections 6.2 to 6.5): commit requests, the sequence of reads, validation, and the ends of a load
other than its install. -/
namespace Sys2Proof.Machine

/-! ### Commit requests (R111 to R113) -/

/-- R111, R112: READING starts for generation `gen` at clock value `now`. -/
def newLoad (gen : BitVec 16) (now : Word) : Load :=
  { gen := gen, start := now, words := [], firstFail := none, cands := [], resume := [] }

/-- R112: the take of a commit request with written value `v`. No access is taken while the Loader is DRAINING (R95), so
that row of the table does not arise. -/
def takeCommit (v : Word) (s : State) : State :=
  if s.partState = .holdover ∨ commitGen v = 0 then s
  else
    match s.loader with
    | .idle => { s with loader := .reading (newLoad (commitGen v) s.clock) }.mark (.part 1)
    | .reading _ => { s with remembered := some (commitGen v) }.mark (.part 1)
    | .draining _ => s

/-- R113: at the end of a load with result OK or with a failure the Loader looks at the remembered request. -/
def continueLoader (s : State) : State :=
  (match s.remembered with
    | some gen => { s with loader := .reading (newLoad gen s.clock), remembered := none }
    | none => { s with loader := .idle }).mark (.part 1)

/-! ### The words of a load (R110, R114) -/

/-- The number of table reads of a load (R100): 1 + 64 + 192 + 96. -/
def tableReads : Nat := 353

/-- R114: the control word of table read number `k`, from 0. -/
def tableAddr (k : Nat) : Nat :=
  if k = 0 then 0x010 else if k ≤ 64 then 0x040 + (k - 1) else if k ≤ 256 then 0x080 + (k - 65) else 0x140 + (k - 257)

/-- R114, R115: the address of the next read of a load, if it has one still to make: a table word, or S0 and then S3 of a
resume candidate. -/
def Load.nextRead (l : Load) : Option PhysAddr :=
  if l.words.length < tableReads then some (ctl (tableAddr l.words.length))
  else
    match l.cands[l.resume.length / 2]? with
    | some n => some (ctl (if l.resume.length % 2 = 0 then 0x200 + 4 * n else 0x203 + 4 * n))
    | none => none

def Load.word (l : Load) (k : Nat) : Word := l.words.getD k 0

/-- The parameter word as read. -/
def Load.param (l : Load) : Word := l.word 0

/-- Region entry `i` as read (R110: words 040h + 4i to 043h + 4i). -/
def Load.region (l : Load) (i : Nat) : RegionWords :=
  { w0 := l.word (1 + 4 * i), w1 := l.word (2 + 4 * i), w2 := l.word (3 + 4 * i), w3 := l.word (4 + 4 * i) }

/-- Channel descriptor `n` as read (R110: words 080h + 8n to 087h + 8n). -/
def Load.chan (l : Load) (n : Nat) : ChanDesc :=
  { w0 := l.word (65 + 8 * n), w1 := l.word (66 + 8 * n), w2 := l.word (67 + 8 * n), w3 := l.word (68 + 8 * n)
    w4 := l.word (69 + 8 * n), w5 := l.word (70 + 8 * n), w6 := l.word (71 + 8 * n), w7 := l.word (72 + 8 * n) }

/-- Group descriptor `g` as read (R110: words 140h + 4g to 143h + 4g). -/
def Load.group (l : Load) (g : Nat) : GroupDesc :=
  { w0 := l.word (257 + 4 * g), w1 := l.word (258 + 4 * g), w2 := l.word (259 + 4 * g), w3 := l.word (260 + 4 * g) }

/-- The next-member field of channel `n` in the table set read, if its descriptor is valid. -/
def Load.nextOf (l : Load) (n : Nat) : Option Nat :=
  if n < 24 ∧ (l.chan n).valid then some (l.chan n).nextMember else none

/-- R124: the channel installed at `n` is carried by the table set read. -/
def carriesChannel (s : State) (l : Load) (n : Nat) : Bool :=
  match s.channel? n with
  | some c => (l.chan n).valid && (l.chan n).sameBody c.desc
  | none => false

/-- R115: the resume candidates of the table set read, in increasing channel order. -/
def pickCandidates (s : State) (l : Load) : List Nat :=
  indices.filter fun n => (l.chan n).valid && (l.chan n).resume && !carriesChannel s l n

/-! ### Validation (R117 to R120) -/

/-- A check that fails names the result code and the detail. -/
abbrev Failure := ResultCode × Detail

/-- The detail of entry `i` of a table. -/
def detailOf (t : TableCode) (i : Nat) : Detail := { table := t, index := BitVec.ofNat 12 i }

/-- R118, the parameter word. -/
def paramFails (w : Word) : Bool := (paramFaultSignal w .A).isNone || (paramFaultSignal w .B).isNone

/-- R118: a window of `len` addresses from `base` leaves 1000h to FFFFh. -/
def windowFails (base len : Nat) : Bool := base < 0x1000 || base + len - 1 > 0xFFFF

/-- R118, a region entry. -/
def regionFails (r : RegionWords) : Bool :=
  r.rightsA.isNone || r.rightsB.isNone || r.len.toNat == 0 || decide (r.len.toNat > 0xF000) ||
    windowFails r.lbase.toNat r.len.toNat

/-- R118, a channel descriptor. -/
def chanFails (d : ChanDesc) : Bool :=
  !(d.depth == 2 || d.depth == 3 || d.depth == 4) || decide (d.group > 23) ||
    !(decide (d.nextMember ≤ 23) || d.nextMember == chainEnd) || d.len == 0 || decide (d.len > 4096) ||
    windowFails d.lbase d.len

/-- R118, a group descriptor. -/
def groupFails (d : GroupDesc) : Bool :=
  d.mode.isNone || decide (d.first > 23) ||
    (d.mode == some .timed && (d.period.toNat == 0 || decide (d.period.toNat ≤ d.phase.toNat)))

/-- The valid region indices of a table set. -/
def Load.regions (l : Load) : List Nat := (List.range 16).filter fun i => (l.region i).valid

/-- The valid channel indices of a table set. -/
def Load.chans (l : Load) : List Nat := indices.filter fun n => (l.chan n).valid

/-- The valid group indices of a table set. -/
def Load.groups (l : Load) : List Nat := indices.filter fun g => (l.group g).valid

/-- R119: the walk of group `g`'s chain from member `m`, having visited `seen`: the members in chain order, or none where
the walk fails. A walk visits at most 24 channels, so `fuel` is 25. -/
def walkChain (l : Load) (g : Nat) : Nat → Nat → List Nat → Option (List Nat)
  | 0, _, _ => none
  | fuel + 1, m, seen =>
    if (l.nextOf m).isSome && (l.chan m).group == g && !seen.contains m then
      if (l.chan m).nextMember = chainEnd then some (seen ++ [m])
      else walkChain l g fuel (l.chan m).nextMember (seen ++ [m])
    else none

/-- The walk of group `g` in the table set read; none where the group's descriptor is not valid. -/
def Load.walk (l : Load) (g : Nat) : Option (List Nat) :=
  if g < 24 ∧ (l.group g).valid then walkChain l g 25 (l.group g).first [] else none

/-- R119: channel `n` was visited by the walk of the group it names. -/
def Load.visited (l : Load) (n : Nat) : Bool :=
  match l.walk (l.chan n).group with
  | some ms => ms.contains n
  | none => false

/-- R119, step 6: the members of group `g` do not all name the same producer port. -/
def Load.mixed (l : Load) (g : Nat) : Bool :=
  match l.walk g with
  | some ms => ms.any fun m => (l.chan m).producer != (l.chan (l.group g).first).producer
  | none => false

/-- A span of addresses with the entry it belongs to. -/
structure Span where
  owner : Detail
  base  : Nat
  len   : Nat
  deriving DecidableEq, Repr

/-- Two spans share an address. -/
def Span.meets (x y : Span) : Bool := x.base < y.base + y.len && y.base < x.base + x.len

/-- R120, step 7: the logical windows in table order. -/
def Load.logicalSpans (l : Load) : List Span :=
  (l.regions.map fun i =>
    { owner := detailOf .region i, base := (l.region i).lbase.toNat, len := (l.region i).len.toNat }) ++
  (l.chans.map fun n => { owner := detailOf .channel n, base := (l.chan n).lbase, len := (l.chan n).len })

/-- The first span of the list that meets one before it. -/
def firstOverlap : List Span → List Span → Option Span
  | _, [] => none
  | before, x :: rest => if before.any x.meets then some x else firstOverlap (before ++ [x]) rest

/-- The control area as a span of physical addresses. -/
def controlSpan : Span := { owner := Detail.nothing, base := 0, len := 0x1000 }

/-- R120: the physical window of region entry `i`. -/
def Load.regionSpan (l : Load) (i : Nat) : Span :=
  { owner := detailOf .region i, base := (l.region i).pbase.toNat, len := (l.region i).len.toNat }

/-- R120: buffers 0 to depth - 1 of channel `n`, in order. -/
def Load.bufferSpans (l : Load) (n : Nat) : List Span :=
  (List.range (l.chan n).depth).map fun k =>
    { owner := detailOf .channel n, base := ((l.chan n).base k).toNat, len := (l.chan n).len }

/-- R120: the check of one physical span against the fitted size and the spans in `barred`. -/
def spanFails (fitted : Nat) (barred : List Span) (x : Span) : Option Failure :=
  if x.base + x.len > fitted then some (.beyondFitted, x.owner)
  else if barred.any x.meets then some (.physicalOverlap, x.owner)
  else none

/-- R120: the buffers in order, each against the control area, the regions' windows and every buffer before it. -/
def buffersFail (fitted : Nat) (barred : List Span) : List Span → Option Failure
  | [] => none
  | x :: rest =>
    match spanFails fitted barred x with
    | some f => some f
    | none => buffersFail fitted (barred ++ [x]) rest

/-- R120, step 8: the valid regions by index, then the buffers of the valid channels by index. -/
def Load.physicalFails (l : Load) (fitted : Nat) : Option Failure :=
  match (l.regions.map l.regionSpan).findSome? (spanFails fitted [controlSpan]) with
  | some f => some f
  | none => buffersFail fitted (controlSpan :: l.regions.map l.regionSpan) (l.chans.flatMap l.bufferSpans)

/-- The first of a list of indices at which a check fails, with its code and detail. -/
def firstFailing (is : List Nat) (fails : Nat → Bool) (code : ResultCode) (t : TableCode) : Option Failure :=
  (is.find? fails).map fun i => (code, detailOf t i)

/-- R117: the eight steps in order; none where every step passes. -/
def Load.validate (l : Load) (fitted : Nat) : Option Failure :=
  (if paramFails l.param then some (.badParam, detailOf .parameter 0) else none)
  <|> firstFailing l.regions (fun i => regionFails (l.region i)) .badRegion .region
  <|> firstFailing l.chans (fun n => chanFails (l.chan n)) .badChannel .channel
  <|> firstFailing l.groups (fun g => groupFails (l.group g)) .badGroup .group
  <|> firstFailing l.groups (fun g => (l.walk g).isNone) .chainBroken .group
  <|> firstFailing l.chans (fun n => !l.visited n) .chainBroken .channel
  <|> firstFailing l.groups l.mixed .mixedProducer .group
  <|> (firstOverlap [] l.logicalSpans).map (fun x => (.logicalOverlap, x.owner))
  <|> l.physicalFails fitted

/-! ### The ends of a load (R116, R121, R122, R130) -/

/-- B2 and B3 take the result of a load; the COMMIT record goes to both journals and COMMIT is raised for both ports
(R121, R129, R130). -/
def reportLoadEnd (l : Load) (code : ResultCode) (detail : Detail) (s : State) : State :=
  let r : LoadResult := { gen := l.gen, code := code, detail := detail }
  ((({ s with lastResult := r }.mark (.part 2)).mark (.part 3)).offerBoth (commitRecord r l.start s.clock)).raiseBoth .commit

/-- R121, R113: a load that fails. -/
def failLoad (l : Load) (code : ResultCode) (detail : Detail) (s : State) : State :=
  continueLoader (reportLoadEnd l code detail s)

/-- R117, R122: validation at the completion of the last read. -/
def finishReading (l : Load) (s : State) : State :=
  match l.validate (fittedWords s.msz) with
  | some (code, detail) => failLoad l code detail s
  | none => { s with loader := .draining l }.mark (.part 1)

/-- The table that holds control word `n` of the tables (10.3). -/
def tableOf (n : Nat) : TableCode :=
  if n < 0x040 then .parameter else if n < 0x080 then .region else if n < 0x140 then .channel else .group

/-- R106, R116: the detail of a load ended by a table word that fails its check: its table and its address. -/
def parityDetail (l : Load) : Detail :=
  match l.firstFail with
  | some a => { table := tableOf a.toNat, index := a.setWidth 12 }
  | none => Detail.nothing

/-- R114 to R117: the completion of a table read with word `w`. -/
def tableReadDone (l : Load) (w : Word) (errs : Lanes) (s : State) : State :=
  if errs ≠ 0 then
    let l' := { l with firstFail := some (ctl (tableAddr l.words.length)) }
    failLoad l' .parity (parityDetail l') s
  else
    let l1 := { l with words := l.words ++ [w] }
    if l1.words.length < tableReads then { s with loader := .reading l1 }
    else
      let l2 := { l1 with cands := pickCandidates s l1 }
      if l2.cands = [] then finishReading l2 s else { s with loader := .reading l2 }

/-- R115 to R117: the completion of a resume read; its check result is kept and does not end the load. -/
def resumeReadDone (l : Load) (w : Word) (errs : Lanes) (s : State) : State :=
  let l' := { l with resume := l.resume ++ [(w, errs == 0)] }
  if l'.resume.length < 2 * l'.cands.length then { s with loader := .reading l' } else finishReading l' s

/-- R114: a Loader read cycle ends with word `w` and check result `errs`. If the load has been abandoned meanwhile, "Its
data and check result are not used" (R100). -/
def loaderReadDone (w : Word) (errs : Lanes) (s : State) : State :=
  match s.loader with
  | .reading l => if l.words.length < tableReads then tableReadDone l w errs s else resumeReadDone l w errs s
  | _ => s

/-- R130: the load, if there is one, is abandoned at the start of holdover. -/
def abandonLoad (s : State) : State :=
  match s.loader with
  | .idle => s
  | .reading l | .draining l =>
    reportLoadEnd l .abandoned Detail.nothing ({ s with loader := .idle, remembered := none }.mark (.part 1))

end Sys2Proof.Machine
end

