-- ==== Sys2Proof/Machine/Map.lean ====
section
/-! DEFINITION. The map unit (chapter 4): where a logical address lands in the map in force, what the port may do there, and
the violations. -/
namespace Sys2Proof.Machine

/-- Where a logical address lands (R72). -/
inductive Landing where
  | control (n : Nat)
  | channel (n off : Nat)
  | plain (r : Nat) (phys : PhysAddr) (region : Region)
  | identity (phys : PhysAddr)
  | absent
  | unmapped
  deriving DecidableEq, Repr

/-- The window from `base` of `len` addresses holds address `a`. -/
def inWindow (base len a : Nat) : Bool := base ≤ a && a < base + len

/-- The installed channel whose window holds address `a` (R76). -/
def State.channelAt (s : State) (a : Nat) : Option Nat :=
  indices.find? fun n =>
    match s.channel? n with
    | some c => inWindow c.desc.lbase c.desc.len a
    | none => false

/-- The entry of the installed region table at index `r`, if valid. -/
def State.region? (s : State) (r : Nat) : Option Region := (s.regions[r]?).getD none

/-- The valid region whose PLAIN window holds address `a` (R76, R83). -/
def State.regionAt (s : State) (a : Nat) : Option Nat :=
  (List.range 16).find? fun r =>
    match s.region? r with
    | some g => inWindow g.lbase.toNat g.len.toNat a
    | none => false

/-- R83: "Its physical address is the physical base plus (logical address - logical base)." -/
def Region.relocate (g : Region) (a : LogAddr) : PhysAddr := g.pbase + (a - g.lbase).setWidth 17

/-- R75, R86: a logical address in the identity window, compared with the fitted size. -/
def identityLanding (s : State) (a : LogAddr) : Landing :=
  if a.toNat < fittedWords s.msz then .identity (a.setWidth 17) else .absent

/-- R76, R86: a logical address outside the control area in an installed map. -/
def installedLanding (s : State) (a : LogAddr) : Landing :=
  match s.channelAt a.toNat with
  | some n =>
    match s.channel? n with
    | some c => .channel n (a.toNat - c.desc.lbase)
    | none => .unmapped
  | none =>
    match s.regionAt a.toNat with
    | some r =>
      match s.region? r with
      | some g => .plain r (g.relocate a) g
      | none => .unmapped
    | none => .unmapped

/-- R72: where logical address `a` lands in the map in force. -/
def landing (s : State) (a : LogAddr) : Landing :=
  if a.toNat ≤ 0xFFF then .control a.toNat
  else
    match s.mapState with
    | .unconfigured => identityLanding s a
    | .installed => installedLanding s a

/-- R84: whether the rights allow an access. -/
def Rights.allow (r : Rights) (wr : Bool) : Bool :=
  match r with
  | .none => false
  | .read => !wr
  | .readWrite => true

/-- R80: "A write from the named port with all four lanes set is also taken as a trigger." -/
def isTriggerTake (d : Drive) : Bool := d.wr && d.lanes == 0xF

/-- R77 to R81: what the decode makes of an access by port `p` to control word `n`. -/
def decodeControl (s : State) (p : Port) (d : Drive) (n : Nat) : Decoded :=
  if !d.wr then .control (wordClass n) false (ctl n)
  else
    match wordClass n with
    | .partOwned => .violation .owned none
    | .table => if p = s.configPort then .control .table false (ctl n) else .violation .table none
    | .trigger t =>
      if p = t.owner s.configPort then .control (.trigger t) (isTriggerTake d) (ctl n)
      else .violation .foreignTrigger none
    | .user => .control .user false (ctl n)

/-- R87, R88: a violation by port `p`: the VIOLATION record to its journal and the VIOLATION cause. `subject` is the channel
for CONSUMER_WRITE, else 0. -/
def violate (p : Port) (d : Drive) (kind : ViolationKind) (subject : Nat) (region : Option Nat) (s : State) : State :=
  (s.offer p (violationRecord kind subject region d s.clock)).raise p .violation

/-- R73: "physical address: for an allowed access that needs memory: the word it reaches". An access with none needs no
memory cycle (section 5, table). -/
def Decoded.phys? : Decoded → Option PhysAddr
  | .control _ _ a => some a
  | .channel c =>
    match c.steer with
    | .buffer _ a => some a
    | .nowhere => none
  | .plain _ a => some a
  | .identity a => some a
  | .unmapped => none
  | .absent => none
  | .violation _ _ => none

/-- Whether a decode result is a violation, so that ERR follows the fault-signal setting (R89). -/
def Decoded.isViolation : Decoded → Bool
  | .violation _ _ => true
  | _ => false

end Sys2Proof.Machine
end

