-- ==== Sys2Proof/Machine/Attention.lean ====
section
/-! DEFINITION. The takes that the attention unit and the journal unit own (chapters 7 and 8), and the marking of report
words at a change of the pending set (R157). -/
namespace Sys2Proof.Machine

/-- R160: an ENABLE_x take of value `v`: the enable set is replaced, the line is set afresh, the report word is marked. -/
def takeEnable (x : Port) (v : Word) (s : State) : State :=
  { s with
    attention := s.attention.modify x fun a =>
      { a with enable := causeBits v, line := lineFor a.reported (causeBits v) } }.mark (.report x)

/-- R158: an ACK_x take of value `v`: each latched event cause named is cleared, bits of level causes have no effect, and
the report word is marked. -/
def takeAck (x : Port) (v : Word) (s : State) : State :=
  { s with
    attention := s.attention.modify x fun a =>
      { a with latched := a.latched &&& ~~~(causeBits v &&& eventCauses) } }.mark (.report x)

/-- R145: whether index `n` is accepted: "(n - Rd) modulo 128 is not greater than (H - Rd) modulo 128". -/
def Journal.accepts (j : Journal) (n : BitVec 7) : Bool := n - j.rd ≤ j.h - j.rd

/-- R145, R146: a JREAD_x take of value `v`: Rd becomes the index if it is accepted, INDEX_FAULT is raised if not, and the
report word is marked in both cases. -/
def takeJread (x : Port) (v : Word) (s : State) : State :=
  (if (s.journals.get x).accepts (jreadIndex v) then
    { s with journals := s.journals.modify x fun j => { j with rd := jreadIndex v } }
  else s.raise x .indexFault).mark (.report x)

/-- R157: the report word of port `p` is marked if the pending set of `p` is not what it was in `before`. -/
def noteReport (before : State) (p : Port) (s : State) : State :=
  if pendingSet s p = pendingSet before p then s else s.mark (.report p)

/-- R157: "Every change of the pending set marks the report word of port x dirty": what has changed since `before`. Every
event ends with this comparison (`event`). An event in which a later part may undo what an earlier part has changed makes it
between the two as well (`complete`). No other event has such parts: the takes that follow an install, a start of holdover
or a rise of RST_N latch causes, clear them by an ACK or JREAD take, which marks by itself, or end a HALTED cause, which
none of these begins. -/
def noteReports (before s : State) : State := noteReport before .B (noteReport before .A s)

end Sys2Proof.Machine
end

