-- ==== Sys2Proof/Machine/Mirror.lean ====
section
/-! DEFINITION. The Mirror (section 6.7): the content of each item, the choice of the item to start, the cycles of the item
in flight, and what the completion of an item does. -/
namespace Sys2Proof.Machine

/-- R131: the number of cycles of an item. -/
def MirrorItem.cycles : MirrorItem → Nat
  | .part _ => 1
  | .report _ => 1
  | .head _ => 1
  | .slot _ _ => 4
  | .chanBlock _ => 5
  | .groupBlock _ => 3

/-- The four words of a record in slot order. -/
def Record.words (r : Record) : List Word := [r.w0, r.w1, r.w2, r.w3]

/-- R161: the content of port `p`'s report word, formed at the grant of its write, with the sequence advanced by one. -/
def reportContent (s : State) (p : Port) : Word :=
  reportWord (pendingSet s p) (priorityCode (pendingSet s p) (s.attention.get p).enable) ((s.attention.get p).repSeq + 1)

/-- R132: the content of an item captured at its first grant, from its internal value; a status block's first word
without its update count. -/
def itemContent (s : State) (i : MirrorItem) : List Word :=
  match i with
  | .part n => [partWord s n]
  | .report p => [reportContent s p]
  | .head p => [headWord (s.journals.get p)]
  | .slot p k => Record.words (((s.journals.get p).ring[k.toNat]?).getD { w0 := 0, w1 := 0, w2 := 0, w3 := 0 })
  | .chanBlock n =>
    match s.channel? n with
    | some c => chanBlock c
    | none => [0, 0, 0, 0]
  | .groupBlock n =>
    match s.group? n with
    | some g => groupBlock g
    | none => [0, 0]

/-- The control word that begins an item (R110, R136, 10.2). -/
def MirrorItem.base : MirrorItem → Nat
  | .part n => n
  | .report .A => 0x020
  | .report .B => 0x028
  | .head .A => 0x021
  | .head .B => 0x029
  | .slot .A k => 0x400 + 4 * k.toNat
  | .slot .B k => 0x600 + 4 * k.toNat
  | .chanBlock n => 0x200 + 4 * n
  | .groupBlock n => 0x260 + 2 * n

/-- R134: whether an item is a status block, written as one sequence that begins and ends with its first word. -/
def MirrorItem.isBlock : MirrorItem → Bool
  | .chanBlock _ => true
  | .groupBlock _ => true
  | _ => false

/-- Which word of the item its cycle `k` writes, from 0: in order, a status block's last cycle its first word again. -/
def MirrorItem.wordIndex (i : MirrorItem) (k : Nat) : Nat := if i.isBlock && k + 1 == i.cycles then 0 else k

/-- R134: whether the update count advances at the grant of cycle `k`: the first and the last of a status block. -/
def MirrorItem.countsAt (i : MirrorItem) (k : Nat) : Bool := i.isBlock && (k == 0 || k + 1 == i.cycles)

/-- The internal update count of an item's block. -/
def Mirror.count (m : Mirror) (i : MirrorItem) : BitVec 8 :=
  match i with
  | .chanBlock n => (m.chanCount[n]?).getD 0
  | .groupBlock n => (m.groupCount[n]?).getD 0
  | _ => 0

/-- The Mirror with the update count of an item's block advanced by one. -/
def Mirror.advance (m : Mirror) (i : MirrorItem) : Mirror :=
  match i with
  | .chanBlock n => { m with chanCount := m.chanCount.setIfInBounds n (m.count i + 1) }
  | .groupBlock n => { m with groupCount := m.groupCount.setIfInBounds n (m.count i + 1) }
  | _ => m

/-! ### The choice of an item (R133) -/

/-- How far slot `k` lies beyond the completed index of its journal in ring order. -/
def ringPlace (s : State) (p : Port) (k : BitVec 7) : Nat := (k - (s.journals.get p).c).toNat

/-- R133: "A slot is not started while an earlier dirty slot of the same journal is dirty or in flight." The choice is made
while no item is in flight. -/
def slotInOrder (s : State) (i : MirrorItem) : Bool :=
  match i with
  | .slot p k =>
    s.mirror.dirty.all fun j =>
      match j with
      | .slot q m => q != p || decide (ringPlace s p k ≤ ringPlace s p m)
      | _ => true
  | _ => true

/-- R133: the dirty items that the constraints allow. -/
def allowedItems (s : State) : List MirrorItem := s.mirror.dirty.filter (slotInOrder s)

/-- R133: "A dirty item that these constraints allow is started before any other item is started twice": item `j` may be
started unless it has been started while another allowed item waited. -/
def notTwice (s : State) (j : MirrorItem) : Bool :=
  (allowedItems s).all fun i => i == j || !s.mirror.passed.contains (i, j)

/-- The items that may be started now. -/
def startable (s : State) : List MirrorItem := (allowedItems s).filter (notTwice s)

/-- Member number `k` of a list, counted round and round; a list of one has only its one. -/
def pickFrom {α : Type} (k : Nat) : List α → Option α
  | [] => none
  | [x] => some x
  | x :: rest => (x :: rest)[k % (rest.length + 1)]?

/-- R133: the item started, "any dirty item that these constraints allow": a free value picks. -/
def chosenItem (s : State) : Option MirrorItem := pickFrom (Config.mirrorPick s.freeCtr) (startable s)

/-- A new item in flight, no cycle of it granted yet. -/
def newFlight (s : State) (i : MirrorItem) : Flight :=
  { item := i, content := itemContent s i, granted := 0, changed := false }

/-- The item that a Mirror grant serves: the one in flight while it has cycles left, else one started now. -/
def servedFlight (s : State) : Option Flight :=
  match s.mirror.flight with
  | some f => if f.granted < f.item.cycles then some f else (chosenItem s).map (newFlight s)
  | none => (chosenItem s).map (newFlight s)

/-- R132: the Mirror has work: an item dirty, or one in flight with cycles left. -/
def mirrorWants (s : State) : Bool :=
  !s.mirror.dirty.isEmpty ||
    match s.mirror.flight with
    | some f => f.granted < f.item.cycles
    | none => false

/-! ### A Mirror grant (R132, R134) -/

/-- The word that the next cycle of a flight writes; a status block's first word carries the advanced update count. -/
def flightWord (m : Mirror) (f : Flight) : Word :=
  let w := f.content.getD (f.item.wordIndex f.granted) 0
  if f.item.countsAt f.granted then w ||| (m.count f.item + 1).setWidth 32 else w

/-- The M-port cycle of a flight's next word: all four lanes (R97, R131). -/
def flightCycle (m : Mirror) (f : Flight) : MCycle :=
  { use := .mirror
    addr := ctl (f.item.base + f.item.wordIndex f.granted)
    wr := true
    lanes := 0xF
    data := flightWord m f }

/-- R133: item `i` is started: it is no longer dirty, and every other allowed item has seen it pass. -/
def startItem (s : State) (i : MirrorItem) (m : Mirror) : Mirror :=
  { m with
    dirty := m.dirty.filter (· ≠ i)
    passed := (m.passed.filter fun q => q.1 ≠ i) ++ (((allowedItems s).filter (· ≠ i)).map fun j => (j, i)) }

/-- The Mirror after it has been granted a cycle for flight `f`. -/
def mirrorGranted (s : State) (f : Flight) : Mirror :=
  let m := if f.granted = 0 then startItem s f.item s.mirror else s.mirror
  let m := if f.item.countsAt f.granted then m.advance f.item else m
  { m with flight := some { f with granted := f.granted + 1 } }

/-- R161: the report sequence advances at the grant of a report write. -/
def attentionGranted (s : State) (f : Flight) : Both Attention :=
  match f.item with
  | .report p => s.attention.modify p fun a => { a with repSeq := a.repSeq + 1 }
  | _ => s.attention

/-! ### The completion of an item (R132, R143, R144, R163) -/

/-- R144: the head index that a head word carries. -/
def headIndexOf (w : Word) : BitVec 7 := w.extractLsb' 0 7

/-- R143, R144, R163: what the completion of an item's last cycle changes in the block that owns it. -/
def itemCompleted (f : Flight) (s : State) : State :=
  match f.item with
  | .slot p _ => { s with journals := s.journals.modify p fun j => { j with c := j.c + 1 } }.mark (.head p)
  | .head p =>
    { s with journals := s.journals.modify p fun j => { j with h := headIndexOf (f.content.getD 0 0) } }
  | .report p =>
    { s with
      attention := s.attention.modify p fun a =>
        { a with reported := causeBits (f.content.getD 0 0), line := lineFor (causeBits (f.content.getD 0 0)) a.enable } }
  | _ => s

/-- R132: at the completion of its last cycle an item becomes clean if not marked changed, dirty if it was. -/
def landFlight (f : Flight) (m : Mirror) : Mirror :=
  { m with flight := none, dirty := if f.changed then insertItem f.item m.dirty else m.dirty }

/-- A Mirror write cycle ends. -/
def mirrorCycleDone (s : State) : State :=
  match s.mirror.flight with
  | some f =>
    if f.granted < f.item.cycles then s
    else itemCompleted f { s with mirror := landFlight f s.mirror }
  | none => s

end Sys2Proof.Machine
end

