-- ==== Sys2Proof/Machine/Arbiter.lean ====
section
/-! DEFINITION. The M-port arbiter (sections 5.3 and 5.4): who waits, who is granted, and what a grant changes. `grant` is
written field by field, so that every field it does not name is unchanged by definition. -/
namespace Sys2Proof.Machine

/-! ### Accesses in flight and the end of a drain (R91, R122) -/

/-- R91: "An access is in flight while its port is TAKEN or IN CYCLE." -/
def AccessState.inFlight : AccessState → Bool
  | .taken _ => true
  | .inCycle _ => true
  | _ => false

/-- R122: the Loader is DRAINING and "neither port has an access TAKEN or IN CYCLE": the install occurs at this event. -/
def installOwed (s : State) : Bool :=
  match s.loader with
  | .draining _ => !(s.access .A).inFlight && !(s.access .B).inFlight
  | _ => false

/-! ### Who waits (R98, R100) -/

/-- R98: a port waits "while its port is TAKEN with an access that needs a cycle". -/
def portWaits (s : State) (p : Port) : Bool :=
  match s.access p with
  | .taken t => t.outcome.phys?.isSome
  | _ => false

/-- The next read of the Loader, while it is READING and has a read still to make (R100). A read in progress has been
made. -/
def loaderNext (s : State) : Option PhysAddr :=
  match s.loader with
  | .reading l =>
    match s.cycle with
    | some c => if c.use = .loader then none else l.nextRead
    | none => l.nextRead
  | _ => none

/-- R100: the Engine waits while the Loader has a read still to make or the Mirror has work. -/
def engineWaits (s : State) : Bool := (loaderNext s).isSome || mirrorWants s

/-- R98: a requester is waiting. -/
def waits (s : State) : Requester → Bool
  | .port p => portWaits s p
  | .engine => engineWaits s

/-- The request lines as they stand. -/
def linesNow (s : State) : RequestLines :=
  { a := portWaits s .A, b := portWaits s .B, engine := engineWaits s }

/-- Whether a requester was waiting before this event. -/
def RequestLines.has (l : RequestLines) : Requester → Bool
  | .port .A => l.a
  | .port .B => l.b
  | .engine => l.engine

/-! ### The search (R98, R99) -/

/-- R98: the order of search after the last-granted requester. -/
def searchOrder : Requester → List Requester
  | .port .A => [.port .B, .engine, .port .A]
  | .port .B => [.engine, .port .A, .port .B]
  | .engine => [.port .A, .port .B, .engine]

/-- A number for each requester, for the free value of R99. -/
def Requester.number : Requester → Nat
  | .port .A => 0
  | .port .B => 1
  | .engine => 2

/-- R99: whether a waiting requester takes part in the search: it does if it was waiting before this event; one that
begins to wait at the moment of the grant is either among the waiting or not. -/
def takesPart (s : State) (r : Requester) : Bool := s.requestLines.has r || Config.joinsGrant s.freeCtr r.number

/-- R98: the first waiting requester after the last-granted one, among those that take part; if none of them does, the
port is free and they wait, so the first of all. -/
def winner (s : State) : Option Requester :=
  match (searchOrder s.lastGranted).filter (waits s) with
  | [] => none
  | [r] => some r
  | rs =>
    match rs.find? (takesPart s) with
    | some r => some r
    | none => rs.head?

/-- R98: the requester granted at this moment, if a grant is made: RST_N is high (R168), the M port is free and a requester
waits. At the event that ends a drain the grant falls after the install (section 5.8, step 9). -/
def granted (s : State) : Option Requester :=
  if s.pins.rstN && s.cycle.isNone && !installOwed s then winner s else none

/-! ### What a grant changes (R97, R98) -/

/-- R97: the cycle of a port's access: a read drives all four lanes, a write the lanes of the access. -/
def portCycle (p : Port) (t : Taken) : Option MCycle :=
  t.outcome.phys?.map fun a =>
    { use := .port p
      addr := a
      wr := t.drive.wr
      lanes := if t.drive.wr then t.drive.lanes else 0xF
      data := if t.drive.wr then t.drive.data else 0 }

/-- R97: a Loader read of the word at `a`. -/
def loaderCycle (a : PhysAddr) : MCycle := { use := .loader, addr := a, wr := false, lanes := 0xF, data := 0 }

/-- R100: the flight that an Engine grant serves: none while the Loader has a read still to make. -/
def engineFlight (s : State) : Option Flight := if (loaderNext s).isSome then none else servedFlight s

/-- The cycle that a grant starts. -/
def cycleFor (s : State) : Requester → Option MCycle
  | .port p =>
    match s.access p with
    | .taken t => portCycle p t
    | _ => none
  | .engine =>
    match loaderNext s with
    | some a => some (loaderCycle a)
    | none => (servedFlight s).map (flightCycle s.mirror)

/-- R98: a granted port "goes to IN CYCLE". -/
def portsGranted (s : State) : Requester → Both PortIf
  | .port p =>
    match s.access p with
    | .taken t => (s.setAccess p (.inCycle t)).ports
    | _ => s.ports
  | .engine => s.ports

/-- The Mirror after a grant. -/
def mirrorAfter (s : State) : Requester → Mirror
  | .port _ => s.mirror
  | .engine =>
    match engineFlight s with
    | some f => mirrorGranted s f
    | none => s.mirror

/-- The attention state after a grant. -/
def attentionAfter (s : State) : Requester → Both Attention
  | .port _ => s.attention
  | .engine =>
    match engineFlight s with
    | some f => attentionGranted s f
    | none => s.attention

/-- `g` applied to the granted requester, or `d` where none is granted. -/
def onGrant {α : Type} (s : State) (d : α) (g : Requester → α) : α :=
  match granted s with
  | some r => g r
  | none => d

/-- R98: the grant made at the end of an event, if one is made. While RST_N is low none can be made, and no free value is
used (R168). -/
def grantOnce (s : State) : State :=
  { s with
    cycle := onGrant s s.cycle (cycleFor s)
    ports := onGrant s s.ports (portsGranted s)
    lastGranted := onGrant s s.lastGranted id
    mirror := onGrant s s.mirror (mirrorAfter s)
    attention := onGrant s s.attention (attentionAfter s)
    freeCtr := if s.pins.rstN then s.freeCtr + 1 else s.freeCtr }

/-- The grant, after which the request lines stand as they are now; at the event that ends a drain they keep what was
waiting before it, so that the install's grant still knows who was waiting before this moment (R99). -/
def grant (s : State) : State :=
  { grantOnce s with requestLines := if installOwed s then s.requestLines else linesNow (grantOnce s) }

/-- An event without its grant: its effects, and the marks of the report words whose pending sets it changed (R157). -/
def ungranted (f : State → State) (s : State) : State := noteReports s (f s)

/-- One event: its effects, the marks of the report words whose pending sets it changed (R157), and the grant. R164 allows
either order of a raise and the grant of a report write that come together; that the effects of an event come before its grant
is the model's choice (notes/assumptions/27.md). -/
def event (f : State → State) (s : State) : State := grant (ungranted f s)

end Sys2Proof.Machine
end

