-- ==== Sys2Proof/Machine/Access.lean ====
section
/-! DEFINITION. The life of a port access (sections 5.1 and 5.2): arrival, take, completion, the fall of REQ. -/
namespace Sys2Proof.Machine

/-! ### The take (R72, R73, R80, R92) -/

/-- R80: the owner of a trigger acts at the take. -/
def handToOwner (t : Trigger) (v : Word) (s : State) : State :=
  match t with
  | .commit => takeCommit v s
  | .enable x => takeEnable x v s
  | .ack x => takeAck x v s
  | .jread x => takeJread x v s
  | .rearm x => rearm x v s

/-- The effect of a decoded control-area, PLAIN, identity, unmapped or absent access, or violation, on the blocks that own
it. `subject` is the channel of a CONSUMER_WRITE. -/
def actOnTake (p : Port) (d : Drive) (subject : Nat) (o : Decoded) (s : State) : State :=
  match o with
  | .control (.trigger t) true _ => handToOwner t d.data s
  | .violation kind region => violate p d kind subject region s
  | _ => s

/-- R84: an access by port `p` in PLAIN region `r`. -/
def decodePlain (p : Port) (d : Drive) (r : Nat) (phys : PhysAddr) (g : Region) : Decoded :=
  if (g.rights p).allow d.wr then .plain r phys else .violation .rights (some r)

/-- R82: an access by port `p` at offset `off` of channel `n`'s window, with the exchange unit's part of the take. -/
def takeChannel (p : Port) (d : Drive) (n off : Nat) (s : State) : State × Decoded :=
  match s.channel? n with
  | none => (s, .unmapped)
  | some c =>
    if c.desc.producer = p then
      if d.wr then
        let r := takeProducerWrite n off s
        (r.1, .channel r.2)
      else (s, .channel (steerProducerRead s n off))
    else if d.wr then (violate p d .consumerWrite n none s, .violation .consumerWrite none)
    else
      let r := takeConsumerRead n off s
      (r.1, .channel r.2)

/-- R72, R73: an access by port `p` is decoded under the map in force, and everything that is tied to the take happens. -/
def decodeAndAct (p : Port) (d : Drive) (s : State) : State × Decoded :=
  match landing s d.addr with
  | .control n =>
    let o := decodeControl s p d n
    (actOnTake p d 0 o s, o)
  | .channel n off => takeChannel p d n off s
  | .plain r phys g =>
    let o := decodePlain p d r phys g
    (actOnTake p d 0 o s, o)
  | .identity phys => (s, .identity phys)
  | .absent => (s, .absent)
  | .unmapped => (s, .unmapped)

/-- R92: the access `d` of port `p` is taken: the port goes to TAKEN with the decode result. R89: ERR of a violation is the
port's setting at the take. -/
def take (p : Port) (d : Drive) (s : State) : State :=
  let r := decodeAndAct p d s
  r.1.setAccess p (.taken
    { drive := d
      outcome := r.2
      err := r.2.isViolation && (s.ports.get p).faultSignal
      withdrawn := false })

/-! ### Arrival (R92, R94, R95) -/

/-- The Loader is DRAINING. -/
def State.draining (s : State) : Bool :=
  match s.loader with
  | .draining _ => true
  | _ => false

/-- R92, R95: an access arrives at port `p`: taken at once, or held while the Loader is DRAINING. -/
def arrive (p : Port) (d : Drive) (s : State) : State :=
  if s.draining then s.setAccess p (.deferred d) else take p d s

/-- R92, R94: a port that is IDLE with REQ high, as at the rise of RST_N or when an access withdrawn has completed, takes an
arrival with its inputs as driven. -/
def arriveIfRequested (p : Port) (s : State) : State :=
  if (s.ports.get p).req && s.access p == .idle then arrive p (s.ports.get p).inputs s else s

/-- Port `p` drives `d` with REQ high. -/
def drivePort (p : Port) (d : Drive) (s : State) : State :=
  { s with ports := s.ports.modify p fun q => { q with req := true, inputs := d } }

/-- R92, R94: the processor of port `p` drives `d` and raises REQ. It is an arrival if REQ rises while the port is IDLE and
RST_N is high; inputs that change while REQ is high are ignored until the port is IDLE again; while RST_N is low the port
inputs are not sampled (R168). -/
def present (p : Port) (d : Drive) (s : State) : State :=
  if s.pins.rstN && !(s.ports.get p).req then arriveIfRequested p (drivePort p d s) else drivePort p d s

/-- R95: the accesses held by a drain are taken. The two ports' takes touch different state, so their order gives one
result (notes/assumptions/12.md). -/
def takeHeldOf (p : Port) (s : State) : State :=
  match s.access p with
  | .deferred d => take p d s
  | _ => s

/-- R95: "each DEFERRED access is taken, in no order between the two ports". -/
def takeHeld (s : State) : State := takeHeldOf .B (takeHeldOf .A s)

/-! ### The fall of REQ (R93, R94) -/

/-- R93, R94: REQ falls at port `p`: a DONE port goes to IDLE, a DEFERRED access is withdrawn, an access in flight goes on
and its completion will not drive RDY. -/
def AccessState.afterReqFall : AccessState → AccessState
  | .idle => .idle
  | .deferred _ => .idle
  | .taken t => .taken { t with withdrawn := true }
  | .inCycle t => .inCycle { t with withdrawn := true }
  | .done _ _ _ => .idle

/-- REQ of port `p` falls, if it is high. -/
def dropReq (p : Port) (s : State) : State :=
  if (s.ports.get p).req then
    { s with ports := s.ports.modify p fun q => { q with req := false, access := q.access.afterReqFall } }
  else s

/-! ### Completion (R93, R103) -/

/-- The channel, buffer and side of a read in a channel window that reached a buffer (R104). -/
def Decoded.bufferRead? : Decoded → Option (Nat × Nat × Side)
  | .channel a =>
    match a.steer with
    | .buffer b _ => some (a.ch, b, a.side)
    | .nowhere => none
  | _ => none

/-- R93 step 1, R103: a port read with lanes in error offers a PARITY record and raises PARITY. -/
def reportParity (p : Port) (t : Taken) (errs : Lanes) (s : State) : State :=
  match t.outcome.phys? with
  | some a =>
    if !t.drive.wr && errs != 0 then
      (s.offer p (parityRecord t.outcome.bufferRead? errs a t.drive.addr s.clock)).raise p .parity
    else s
  | none => s

/-- R93 step 2: the exchange unit acts where the decode result asks it to. -/
def exchangeStep (t : Taken) (errs : Lanes) (s : State) : State :=
  match t.outcome with
  | .channel a => exchangeCompletion a t.drive.wr (errs != 0) s
  | _ => s

/-- R93 step 3, R94: the port goes to DONE with the read data and ERR, or to IDLE if REQ has fallen since the take; an IDLE
port with REQ high takes an arrival. -/
def finishPort (p : Port) (t : Taken) (rdata : Word) (errs : Lanes) (s : State) : State :=
  if t.withdrawn then arriveIfRequested p (s.setAccess p .idle)
  else s.setAccess p (.done t rdata (t.err || (errs != 0 && (s.ports.get p).faultSignal)))

/-- R93 steps 1 and 2: the PARITY report, then the exchange unit. -/
def completionEffects (t : Taken) (p : Port) (errs : Lanes) (s : State) : State :=
  exchangeStep t errs (reportParity p t errs s)

/-- R93: the completion of an access of port `p`: `rdata` the word read, 0 for an access without a cycle or a write; `errs`
the lanes of a read in error. R157: "Every change of the pending set marks the report word", so what steps 1 and 2 have
changed is noted before step 3, whose arrival may undo it within the event: the REARM take that ends the HALTED cause which
a SHED close has begun. -/
def complete (p : Port) (t : Taken) (rdata : Word) (errs : Lanes) (s : State) : State :=
  finishPort p t rdata errs (noteReports s (completionEffects t p errs s))

/-- R93: port `p`'s access, TAKEN and needing no cycle, completes: a read returns zero. -/
def completeCycleless (p : Port) (s : State) : State :=
  match s.access p with
  | .taken t => if t.outcome.phys?.isNone then complete p t 0 0 s else s
  | _ => s

/-! ### The end of a memory cycle (R97) -/

/-- R97: the SRAM after the cycle has ended: "A write's data and check bits are in memory when its cycle ends." -/
def cycleMem (m : Sram) (c : MCycle) : Sram := if c.wr then m.write c.addr c.lanes c.data else m

/-- R97, R102: the word captured at the end of a read cycle; 0 of a write. -/
def cycleWord (m : Sram) (c : MCycle) : Word := if c.wr then 0 else m.word c.addr

/-- R102: the lanes in error of a read; "Writes are never checked" (R101). -/
def cycleErrors (m : Sram) (c : MCycle) : Lanes := if c.wr then 0 else m.errors c.addr

/-- R97: M_RDY ends the cycle in progress: the port is free, a write is in memory, and the access, the Loader read or the
Mirror cycle completes. -/
def memoryCycleEnd (s : State) : State :=
  match s.cycle with
  | none => s
  | some c =>
    let s1 := { s with cycle := none, mem := cycleMem s.mem c }
    match c.use with
    | .port p =>
      match s.access p with
      | .inCycle t => complete p t (cycleWord s.mem c) (cycleErrors s.mem c) s1
      | _ => s1
    | .loader => loaderReadDone (cycleWord s.mem c) (cycleErrors s.mem c) s1
    | .mirror => mirrorCycleDone s1

end Sys2Proof.Machine
end

