-- ==== Sys2Proof/Machine/Install.lean ====
section
/-! DEFINITION. The install (sections 6.5 and 6.6): what is carried, what ends, what is created, in the order of R129. -/
namespace Sys2Proof.Machine

/-! ### Carrying (R124, R127) -/

/-- The chain of group `g` in the table set read. -/
def Load.chain (l : Load) (g : Nat) : List Nat := chainFrom l.nextOf 24 (l.group g).first

/-- R127: the installed group `g` is carried: its W0 is identical, its chain visits the same channels in the same order,
and every member on it is carried. -/
def carriesGroup (s : State) (l : Load) (g : Nat) : Bool :=
  match s.group? g with
  | some gr =>
    (l.group g).valid && (l.group g).w0 == gr.desc.w0 && l.chain g == s.members g && (s.members g).all (carriesChannel s l)
  | none => false

/-! ### Endings (R126, R128) -/

/-- R126: the records of an ended channel: its FILL_ABORTED for an open pass, then its FILL_ABORTED for a pending buffer. -/
def endChannel (l : Load) (s0 s : State) (n : Nat) : State :=
  match s0.channel? n with
  | none => s
  | some c =>
    if carriesChannel s0 l n then s
    else
      let s1 := match c.pass with
        | some p => s.offer c.desc.producer (abortedPassRecord n p true false s.clock)
        | none => s
      match c.pend with
      | some q => s1.offer c.desc.producer (abortedPendingRecord n q s.clock)
      | none => s1

/-- R128 step 3: the pending buffer of a carried member of a group that ends becomes FREE, with its record. -/
def dropMemberPending (l : Load) (s0 s : State) (n : Nat) : State :=
  match s0.channel? n with
  | none => s
  | some c =>
    if carriesChannel s0 l n then
      match c.pend with
      | some q =>
        (s.modChannel n fun c => { c with pend := none }).offer c.desc.producer (abortedPendingRecord n q s.clock)
      | none => s
    else s

/-- R128: a group that is not carried ends: its pin is released, its gather is cancelled with the group, the pending
buffers of its carried members are dropped in old chain order. -/
def endGroup (l : Load) (s0 s : State) (g : Nat) : State :=
  match s0.group? g with
  | none => s
  | some _ =>
    if carriesGroup s0 l g then s
    else (s0.members g).foldl (dropMemberPending l s0) (releasePin g true s)

/-! ### Channels and groups of the new set (R3, R124, R125, R127, R128) -/

/-- R124, R62, R71: a carried channel with its new W7. For an EMPTY channel whose limit is unchanged, the last sentence of
R62 gives the deadline it had and R71's row a start at this install: the model takes R71's row (DESIGN CHOICE,
notes/assumptions/24.md). -/
def Channel.carried (c : Channel) (d : ChanDesc) (now : Word) : Channel :=
  { c with
    desc := d
    pass := c.pass.map fun p =>
      { p with deadline := carryDeadline p.deadline p.openTime c.desc.fillLimit d.fillLimit now }
    freshDl := match c.cond with
      | .fresh => reformDeadline c.lastPub d.freshLimit now
      | .empty => reformDeadline now d.freshLimit now
      | .stale => none }

/-- R125: the status words read for resume candidate `n`: S0 and S3, each with whether it passed its check. -/
def Load.statusWords (l : Load) (n : Nat) : Option ((Word × Bool) × (Word × Bool)) :=
  match l.cands.idxOf? n with
  | some k =>
    match l.resume[2 * k]?, l.resume[2 * k + 1]? with
    | some x, some y => some (x, y)
    | _, _ => none
  | none => none

/-- R125: the live buffer that a created channel with RESUME takes up: both words passed their checks, the signature
matches, the update count is even, and the live index is below the new depth. -/
def Load.resumed (l : Load) (n : Nat) : Option Nat :=
  if (l.chan n).resume then
    match l.statusWords n with
    | some ((s0, ok0), (s3, ok3)) =>
      if ok0 && ok3 && s3.extractLsb' 0 16 == (l.chan n).signature && !s0.getLsbD 0 &&
          decide (field s0 8 3 < (l.chan n).depth) then
        some (field s0 8 3)
      else none
    | none => none
  else none

/-- R3, R125: a channel created at `now`; `live` is the resumed buffer, if any. -/
def Channel.created (d : ChanDesc) (live : Option Nat) (now : Word) : Channel :=
  { desc := d
    sig := d.signature
    cond := if live.isSome then .fresh else .empty
    halted := false
    live := live
    pend := none
    pass := none
    held := none
    blank := false
    fillSeq := 0
    pubCount := 0
    lastPub := if live.isSome then now else 0
    freshDl := formDeadline now d.freshLimit }

/-- The channel at place `n` after the install: `s0` is the state before it, `s` the state after the endings, whose record
a carried channel keeps. -/
def newChannel (l : Load) (s0 s : State) (n : Nat) : Option Channel :=
  if carriesChannel s0 l n then (s.channel? n).map fun c => c.carried (l.chan n) s.clock
  else if (l.chan n).valid then some (Channel.created (l.chan n) (l.resumed n) s.clock)
  else none

/-- R127, R62: a carried group with its new W1 to W3. -/
def Group.carried (g : Group) (d : GroupDesc) (now : Word) : Group :=
  { g with
    desc := d
    pin := g.pin.map fun p =>
      { p with deadline := carryDeadline p.deadline p.openTime g.desc.holdLimit d.holdLimit now }
    gather := g.gather.map fun q =>
      { q with deadline := carryDeadline q.deadline q.start g.desc.window d.window now } }

/-- R64: the first next frame time of a TIMED group created at `now`. -/
def firstFrame (d : GroupDesc) (now : Word) : Option Word :=
  if d.mode = some .timed then some (now + (if d.phase = 0 then d.period else d.phase).setWidth 32) else none

/-- R33, R128: a group created at `now`. -/
def Group.created (d : GroupDesc) (now : Word) : Group :=
  { desc := d, pin := none, gather := none, nextFrame := firstFrame d now }

/-- The group at place `g` after the install. -/
def newGroup (l : Load) (s0 s : State) (g : Nat) : Option Group :=
  if carriesGroup s0 l g then (s.group? g).map fun gr => gr.carried (l.group g) s.clock
  else if (l.group g).valid then some (Group.created (l.group g) s.clock)
  else none

/-- R74, R83: the installed entry of region words, for a valid entry whose rights are defined codes. -/
def installedRegion (r : RegionWords) : Option Region :=
  if r.valid then
    match r.rightsA, r.rightsB with
    | some a, some b => some { rightsA := a, rightsB := b, lbase := r.lbase, len := r.len, pbase := r.pbase }
    | _, _ => none
  else none

/-- A vector of `n` places filled by `f`. -/
def fillVector {α : Type} (n : Nat) (f : Nat → Option α) : Vector (Option α) n :=
  (List.range n).foldl (fun v i => v.setIfInBounds i (f i)) (Vector.replicate n none)

/-! ### Status blocks (R124 to R128) -/

/-- The block of place `n`: an ended channel's is no longer written for it (R126), an installed one's is marked dirty. -/
def settleChanBlock (l : Load) (s0 s : State) (n : Nat) : State :=
  let s1 := if (s0.channel? n).isSome && !carriesChannel s0 l n then { s with mirror := s.mirror.unmark (.chanBlock n) } else s
  if (s1.channel? n).isSome then s1.mark (.chanBlock n) else s1

/-- The same for the block of group place `g` (R127, R128). -/
def settleGroupBlock (l : Load) (s0 s : State) (g : Nat) : State :=
  let s1 := if (s0.group? g).isSome && !carriesGroup s0 l g then { s with mirror := s.mirror.unmark (.groupBlock g) } else s
  if (s1.group? g).isSome then s1.mark (.groupBlock g) else s1

/-! ### The install (R123, R129) -/

/-- R125: the RESUMED record of channel `n`, to both journals, where it is created and resumed. -/
def offerResumed (l : Load) (s0 s : State) (n : Nat) : State :=
  if (l.chan n).valid && !carriesChannel s0 l n then
    match l.resumed n with
    | some b =>
      s.offerBoth (mkRecord .resumed n (some b) 0 (0#16 ++ (l.chan n).signature : BitVec (16 + 16)) s.clock 0)
    | none => s
  else s

/-- R123: the map, the time unit, the port interfaces and the part take what the load brings. -/
def takeNewSet (l : Load) (s0 s : State) : State :=
  { s with
    mapState := .installed
    regions := fillVector 16 fun i => installedRegion (l.region i)
    channels := fillVector 24 (newChannel l s0 s)
    groups := fillVector 24 (newGroup l s0 s)
    divisor := paramDivisor l.param
    prescaler := 0
    ports :=
      { a := { s.ports.a with faultSignal := (paramFaultSignal l.param .A).getD false }
        b := { s.ports.b with faultSignal := (paramFaultSignal l.param .B).getD false } }
    partState := .running
    installedGen := l.gen }

/-- R129 steps 1 and 2: the endings. -/
def endOldSet (l : Load) (s0 : State) : State :=
  indices.foldl (endGroup l s0) (indices.foldl (endChannel l s0) s0)

/-- R123 to R129: the install of load `l`. The endings come first, then the new set, the RESUMED records, the COMMIT record
with B2 and B3, the marks of B1 to B4; the Loader continues (R113), and the held accesses are taken (R95). -/
def installLoad (l : Load) (s0 : State) : State :=
  let s1 := takeNewSet l s0 (endOldSet l s0)
  let s2 := indices.foldl (settleGroupBlock l s0) (indices.foldl (settleChanBlock l s0) s1)
  let s3 := indices.foldl (offerResumed l s0) s2
  let s4 := reportLoadEnd l .ok Detail.nothing s3
  takeHeld (continueLoader (s4.mark (.part 4)))

/-- R122, R123: the install, where the drain has ended. -/
def install (s : State) : State :=
  match s.loader with
  | .draining l => if installOwed s then installLoad l s else s
  | _ => s

end Sys2Proof.Machine
end

