-- ==== Sys2Proof/Machine/Time.lean ====
section
/-! DEFINITION. The time unit (chapter 3): edges of TCLK, ticks, the deadlines and frame ticks that fall due at a tick, and
the settling of what is due at an event before the next event comes. -/
namespace Sys2Proof.Machine

/-- R55, R56: a rising edge of TCLK taken while RST_N is high: the count increases; when it reaches the divisor it returns
to 0 and the clock advances by one modulo 2^32. Edges while RST_N is low are not counted. -/
def clockEdge (s : State) : State :=
  if s.pins.rstN then
    if s.divisor ≤ s.prescaler + 1 then { s with prescaler := 0, clock := s.clock + 1 }
    else { s with prescaler := s.prescaler + 1 }
  else s

/-! ### What is due (R60, R63, R66, R71) -/

/-- The fill deadline of channel `n`'s open pass is reached now. -/
def fillDue (s : State) (n : Nat) : Bool :=
  match (s.channel? n).bind (·.pass) with
  | some p => isReached p.deadline s.clock
  | none => false

/-- The freshness deadline of channel `n` is reached now; none is reached in HOLDOVER (R71). -/
def freshDue (s : State) (n : Nat) : Bool :=
  s.partState != .holdover &&
    match s.channel? n with
    | some c => isReached c.freshDl s.clock
    | none => false

/-- The hold deadline of group `g`'s pin is reached now. -/
def holdDue (s : State) (g : Nat) : Bool :=
  match (s.group? g).bind (·.pin) with
  | some p => isReached p.deadline s.clock
  | none => false

/-- The gather deadline of group `g` is reached now. -/
def gatherDue (s : State) (g : Nat) : Bool :=
  match (s.group? g).bind (·.gather) with
  | some q => isReached q.deadline s.clock
  | none => false

/-- R63, R66: the clock equals the next frame time of TIMED group `g`, and the part is RUNNING. -/
def frameDue (s : State) (g : Nat) : Bool :=
  s.partState == .running &&
    match s.group? g with
    | some gr => gr.desc.mode == some .timed && gr.nextFrame == some s.clock
    | none => false

/-- The events due in a state: the install that a drain's end has brought about (R122), and the deadlines and frame times
that the clock has reached (R60, R63). -/
def dueEvents (s : State) : List Instr :=
  (if installOwed s then [.install] else []) ++
  (indices.filter (fillDue s)).map .fillExpiry ++
  (indices.filter (freshDue s)).map .freshnessDeadlineReached ++
  (indices.filter (holdDue s)).map .pinRelease ++
  (indices.filter (gatherDue s)).map .partialPublication ++
  (indices.filter (frameDue s)).map .frameTick

/-- Nothing is due: every event that the part owes at this moment has taken place. -/
def settled (s : State) : Bool := (dueEvents s).isEmpty

/-- The effect of an event that the part itself brings about; the other commands have none here. -/
def ownEvent (e : Instr) (s : State) : State :=
  match e with
  | .install => install s
  | .fillExpiry n => expirePass n s
  | .freshnessDeadlineReached n => becomeStale n s
  | .pinRelease g => releasePin g false s
  | .partialPublication g => partialPublication g s
  | .frameTick g => frameTick g s
  | _ => s

/-- How many events can be due at one moment: an install, two for each channel, three for each group. -/
def maxDue : Nat := 121

/-- R60: "When a deadline is reached, the time unit hands it to its owner at that tick." Events due at one moment come in an
order the spec leaves open (R54, R63): a free value picks the next. -/
def settleFor : Nat → State → State
  | 0, s => s
  | fuel + 1, s =>
    match pickFrom (Config.dueOrder s.freeCtr) (dueEvents s) with
    | some e => settleFor fuel (event (ownEvent e) s)
    | none => s

/-- The state once every event due at this moment has taken place. -/
def settle (s : State) : State := settleFor maxDue s

/-- An event from outside the units that own deadlines: what is due at this moment comes first. -/
def outsideEvent (f : State → State) (s : State) : State := event f (settle s)

/-- An event that the part brings about, where it is due: "A cancelled deadline is never reached" (R61). -/
def dueEvent (due : Bool) (f : State → State) (s : State) : State := if due then event f s else s

end Sys2Proof.Machine
end

