-- ==== Sys2Proof/Machine/Power.lean ====
section
/-! DEFINITION. Part states (chapter 9): the start of holdover, the fall and the rise of RST_N. -/
namespace Sys2Proof.Machine

/-! ### Holdover (R172 to R175) -/

/-- R175: "the mask of channels whose pending buffer is kept unpublished". -/
def keptMask (s : State) : Word := channelMask (indices.filter s.hasPending)

/-- R175: the HOLDOVER record: flags 1:0 the part state left, flag 2 ABANDONED. -/
def holdoverRecord (s : State) : Record :=
  mkRecord .holdover 0 none
    (0#9 ++ BitVec.ofBool (match s.loader with
      | .idle => false
      | _ => true) ++ s.partState.code : BitVec (9 + 1 + 2)) (keptMask s) s.clock 0

/-- R173 step 1: channel `n`'s open pass, if any, is aborted. -/
def abortPass (s : State) (n : Nat) : State :=
  match s.channel? n with
  | none => s
  | some c =>
    match c.pass with
    | none => s
    | some p =>
      ((s.modChannel n fun c => { c with pass := none }).mark (.chanBlock n)).offer c.desc.producer
        (abortedPassRecord n p false true s.clock)

/-- R173 step 3: group `g`'s gather, if any, is cancelled without a record. -/
def cancelGather (s : State) (g : Nat) : State :=
  match (s.group? g).bind (·.gather) with
  | some _ => endGather g s
  | none => s

/-- R173 to R175: the start of holdover, with its records in the order of R175. -/
def startHoldover (s : State) : State :=
  let s1 := { s with partState := .holdover }.mark (.part 1)
  let s2 := indices.foldl abortPass (s1.offerBoth (holdoverRecord s))
  takeHeld (abandonLoad (indices.foldl cancelGather s2))

/-- R172: PFAIL_N falls: taken while RST_N is high, it starts holdover in UNCONFIGURED or RUNNING and has no effect in
HOLDOVER. -/
def powerFails (s : State) : State :=
  let s1 := { s with pins := { s.pins with pfailN := false } }
  if s.pins.rstN ∧ s.partState ≠ .holdover then startHoldover s1 else s1

/-! ### Reset (R107, R168 to R171) -/

/-- R107: one lane of a write cycle that a reset abandons: "the old byte and check bit, the new byte and check bit, or a
mixture whose check bit disagrees with its data". Lanes the write did not drive are unchanged. -/
def cutLane (k : Nat) (c : MCycle) (m : Sram) (i : Nat) : Sram :=
  if c.lanes.getLsbD i then
    let old := m.byte c.addr i
    let new := laneByte c.data i
    let mask := Config.cutMask k i
    let mixed := (old &&& ~~~mask) ||| (new &&& mask)
    match Config.cutLane k i with
    | 0 => m
    | 1 => m.writeLane c.addr c.lanes c.data i
    | 2 => m.setLane c.addr i mixed (!checkBit mixed)
  else m

/-- R107, R171: memory across a reset: only the word under a write cycle in progress may change. -/
def cutMem (s : State) : Sram :=
  match s.cycle with
  | some c => if c.wr then [0, 1, 2, 3].foldl (cutLane s.freeCtr c) s.mem else s.mem
  | none => s.mem

/-- A port interface at a reset: the reset values; its pins are the board's. -/
def PortIf.inReset (q : PortIf) : PortIf := { PortIf.reset with req := q.req, inputs := q.inputs }

/-- R168: RST_N falls: every block holds its reset values, memory stays as it was but for a word under a write cycle. The
sampled straps are held until the rise samples them anew (R169). -/
def enterReset (s : State) : State :=
  { State.reset with
    pending := s.pending
    pins := { s.pins with rstN := false }
    msz := s.msz
    configPort := s.configPort
    ports := { a := s.ports.a.inReset, b := s.ports.b.inReset }
    mem := cutMem s
    freeCtr := s.freeCtr + 1 }

/-- R168: the fall of RST_N, if it is high. -/
def resetFalls (s : State) : State := if s.pins.rstN then enterReset s else s

/-- R169: the straps are sampled at the rise of RST_N. R107: a port that waits at that moment is granted before the
Engine's first Mirror write, so every requester takes part in that grant. -/
def sampleStraps (msz : BitVec 2) (cfgpHigh pfailLow : Bool) (s : State) : State :=
  { s with
    pins := { rstN := true, pfailN := !pfailLow, msz := msz, cfgp := cfgpHigh }
    msz := msz
    configPort := portOfBit cfgpHigh
    requestLines := { a := true, b := true, engine := true } }

/-- R92: the ports whose REQ is high when RST_N rises take an arrival at that rise. -/
def arrivalsAtRise (s : State) : State := arriveIfRequested .B (arriveIfRequested .A s)

/-- R169, R170, R172: the rise of RST_N. If PFAIL_N is low, holdover begins at it, before any arrival (R178). -/
def leaveReset (msz : BitVec 2) (cfgpHigh pfailLow : Bool) (s : State) : State :=
  let s1 := sampleStraps msz cfgpHigh pfailLow s
  arrivalsAtRise (if pfailLow then startHoldover s1 else s1)

end Sys2Proof.Machine
end

