-- ==== Sys2Proof/Machine/CycleCommands.lean ====
section
/-! DEFINITION. The meanings of the commands that complete something: a memory cycle, an access without a cycle, a drain. -/
namespace Sys2Proof.Machine

/-- MEMORY_CYCLE_END (R97). -/
def execMemoryCycleEnd (s : State) : Host.Outcome State Fault Refusal :=
  .next (outsideEvent memoryCycleEnd s)

/-- CYCLELESS_COMPLETION (R93). -/
def execCyclelessCompletion (p : Port) (s : State) : Host.Outcome State Fault Refusal :=
  .next (outsideEvent (completeCycleless p) s)

/-- INSTALL (R123), where the drain has ended. -/
def execInstall (s : State) : Host.Outcome State Fault Refusal :=
  .next (dueEvent (installOwed s) install s)

end Sys2Proof.Machine
end

