-- ==== Sys2Proof/Machine/PortCommands.lean ====
section
/-! DEFINITION. The meanings of the commands that come in at a port: accesses presented, and the fall of REQ. The part does
not see a command's name: it decodes what the port drives. So a command of this family does what its access decodes to in
the state it meets; its row names the case the spec gives it (notes/assumptions/2.md). -/
namespace Sys2Proof.Machine

/-- ACCESS_ARRIVAL_HELD (R95): an access arrives while the Loader is DRAINING, and is held. -/
def execAccessArrivalHeld (p : Port) (d : Drive) (s : State) : Host.Outcome State Fault Refusal :=
  .next (outsideEvent (present p d) s)

/-- REQ_FALL (R94). -/
def execReqFall (p : Port) (s : State) : Host.Outcome State Fault Refusal :=
  .next (outsideEvent (dropReq p) s)

/-- PORT_ACCESS_TAKE (R72): any access. -/
def execPortAccessTake (p : Port) (d : Drive) (s : State) : Host.Outcome State Fault Refusal :=
  .next (outsideEvent (present p d) s)

/-- PRODUCER_WRITE (R7): a write. -/
def execProducerWrite (p : Port) (a : LogAddr) (l : Lanes) (v : Word) (s : State) : Host.Outcome State Fault Refusal :=
  .next (outsideEvent (present p (Drive.write a l v)) s)

/-- PRODUCER_READ (R17): a read. -/
def execProducerRead (p : Port) (a : LogAddr) (s : State) : Host.Outcome State Fault Refusal :=
  .next (outsideEvent (present p (Drive.read a)) s)

/-- CONSUMER_READ (R46): a read. -/
def execConsumerRead (p : Port) (a : LogAddr) (s : State) : Host.Outcome State Fault Refusal :=
  .next (outsideEvent (present p (Drive.read a)) s)

/-- A full-lane write of `v` to trigger word `t` (R80). -/
def triggerDrive (t : Trigger) (v : Word) : Drive := Drive.write (triggerAddr t) 0xF v

/-- COMMIT_REQUEST (R112): a full-lane write to COMMIT. -/
def execCommitRequest (p : Port) (v : Word) (s : State) : Host.Outcome State Fault Refusal :=
  .next (outsideEvent (present p (triggerDrive .commit v)) s)

/-- ENABLE_TAKE (R160): a full-lane write by port x to ENABLE_x. -/
def execEnableTake (p : Port) (v : Word) (s : State) : Host.Outcome State Fault Refusal :=
  .next (outsideEvent (present p (triggerDrive (.enable p) v)) s)

/-- ACK_TAKE (R158): a full-lane write by port x to ACK_x. -/
def execAckTake (p : Port) (v : Word) (s : State) : Host.Outcome State Fault Refusal :=
  .next (outsideEvent (present p (triggerDrive (.ack p) v)) s)

/-- JREAD_TAKE (R145): a full-lane write by port x to JREAD_x. -/
def execJreadTake (p : Port) (v : Word) (s : State) : Host.Outcome State Fault Refusal :=
  .next (outsideEvent (present p (triggerDrive (.jread p) v)) s)

/-- REARM_TAKE (R24): a full-lane write by port x to REARM_x. -/
def execRearmTake (p : Port) (v : Word) (s : State) : Host.Outcome State Fault Refusal :=
  .next (outsideEvent (present p (triggerDrive (.rearm p) v)) s)

end Sys2Proof.Machine
end

