-- ==== Sys2Proof/Machine/StateCommands.lean ====
section
/-! DEFINITION. The meanings of the commands of state control: power failure and reset. -/
namespace Sys2Proof.Machine

/-- R172: the fall of PFAIL_N that has just been taken and a fall of RST_N come together: the fall of RST_N stands next in the
queue, with no event between the two (notes/assumptions/26.md). -/
def resetFollows (s : State) : Bool := s.pending.head? == some .resetAssert

/-- HOLDOVER_START (R172, R173): PFAIL_N falls. R172: where it comes together with a fall of RST_N, "no Mirror grant can fall
between the two", so its event makes no grant, and the effects of holdover reach no memory word. -/
def execHoldoverStart (s : State) : Host.Outcome State Fault Refusal :=
  .next (if resetFollows s then ungranted powerFails (settle s) else outsideEvent powerFails s)

/-- RESET_ASSERT (R168): RST_N falls. While it is low no grant is made and no pending set is reported. -/
def execResetAssert (s : State) : Host.Outcome State Fault Refusal :=
  .next (resetFalls (settle s))

/-- RESET_RELEASE (R169, R170): RST_N rises, if it is low. -/
def execResetRelease (msz : BitVec 2) (cfgpHigh pfailLow : Bool) (s : State) : Host.Outcome State Fault Refusal :=
  .next (if s.pins.rstN then s else event (leaveReset msz cfgpHigh pfailLow) s)

end Sys2Proof.Machine
end

