-- ==== Sys2Proof/Machine/TimeCommands.lean ====
section
/-! DEFINITION. The meanings of the time unit's commands: edges of TCLK, deadlines reached, frame ticks. -/
namespace Sys2Proof.Machine

/-- TCLK_EDGE (R55): a rising edge of TCLK. Whether the count reaches the divisor is the part's, not the command's. -/
def execTclkEdge (s : State) : Host.Outcome State Fault Refusal :=
  .next (outsideEvent clockEdge s)

/-- TICK (R56): a rising edge of TCLK at which the count reaches the divisor. -/
def execTick (s : State) : Host.Outcome State Fault Refusal :=
  .next (outsideEvent clockEdge s)

/-- FILL_EXPIRY (R14), where the fill deadline is reached. -/
def execFillExpiry (n : Nat) (s : State) : Host.Outcome State Fault Refusal :=
  .next (dueEvent (fillDue s n) (expirePass n) s)

/-- FRESHNESS_DEADLINE_REACHED (R68), where the freshness deadline is reached. -/
def execFreshnessDeadlineReached (n : Nat) (s : State) : Host.Outcome State Fault Refusal :=
  .next (dueEvent (freshDue s n) (becomeStale n) s)

/-- PIN_RELEASE (R50), where the hold deadline is reached. -/
def execPinRelease (g : Nat) (s : State) : Host.Outcome State Fault Refusal :=
  .next (dueEvent (holdDue s g) (releasePin g false) s)

/-- PARTIAL_PUBLICATION (R41), where the gather deadline is reached. -/
def execPartialPublication (g : Nat) (s : State) : Host.Outcome State Fault Refusal :=
  .next (dueEvent (gatherDue s g) (partialPublication g) s)

/-- FRAME_TICK (R37), where the next frame time is reached. -/
def execFrameTick (g : Nat) (s : State) : Host.Outcome State Fault Refusal :=
  .next (dueEvent (frameDue s g) (frameTick g) s)

end Sys2Proof.Machine
end

