-- ==== Sys2Proof/Machine/Dispatch.lean ====
section
/-! DEFINITION. One arm for each command, each one direct call of its meaning. -/
namespace Sys2Proof.Machine

/-- The effect of a command on everything but the queue. -/
def exec (i : Instr) (s : State) : Host.Outcome State Fault Refusal :=
  match i with
  | .accessArrivalHeld p d => Sys2Proof.Machine.execAccessArrivalHeld p d s
  | .reqFall p => Sys2Proof.Machine.execReqFall p s
  | .portAccessTake p d => Sys2Proof.Machine.execPortAccessTake p d s
  | .producerWrite p a l v => Sys2Proof.Machine.execProducerWrite p a l v s
  | .producerRead p a => Sys2Proof.Machine.execProducerRead p a s
  | .consumerRead p a => Sys2Proof.Machine.execConsumerRead p a s
  | .commitRequest p v => Sys2Proof.Machine.execCommitRequest p v s
  | .enableTake p v => Sys2Proof.Machine.execEnableTake p v s
  | .ackTake p v => Sys2Proof.Machine.execAckTake p v s
  | .jreadTake p v => Sys2Proof.Machine.execJreadTake p v s
  | .rearmTake p v => Sys2Proof.Machine.execRearmTake p v s
  | .memoryCycleEnd => Sys2Proof.Machine.execMemoryCycleEnd s
  | .cyclelessCompletion p => Sys2Proof.Machine.execCyclelessCompletion p s
  | .install => Sys2Proof.Machine.execInstall s
  | .tick => Sys2Proof.Machine.execTick s
  | .fillExpiry c => Sys2Proof.Machine.execFillExpiry c s
  | .freshnessDeadlineReached c => Sys2Proof.Machine.execFreshnessDeadlineReached c s
  | .pinRelease g => Sys2Proof.Machine.execPinRelease g s
  | .partialPublication g => Sys2Proof.Machine.execPartialPublication g s
  | .frameTick g => Sys2Proof.Machine.execFrameTick g s
  | .holdoverStart => Sys2Proof.Machine.execHoldoverStart s
  | .resetAssert => Sys2Proof.Machine.execResetAssert s
  | .resetRelease msz cfgp pfail => Sys2Proof.Machine.execResetRelease msz cfgp pfail s
  | .tclkEdge => Sys2Proof.Machine.execTclkEdge s

end Sys2Proof.Machine
end

