-- ==== Sys2Proof/Machine/Signals.lean ====
section
/-! DEFINITION. The output signals (10.1), read from the state. -/
namespace Sys2Proof.Machine

/-- x_RDY: asserted while the port is DONE (R91). -/
def State.rdy (s : State) (p : Port) : Bool :=
  match s.access p with
  | .done _ _ _ => true
  | _ => false

/-- x_ERR: as the completion set it, while the port is DONE (R91, R93). -/
def State.errLine (s : State) (p : Port) : Bool :=
  match s.access p with
  | .done _ _ e => e
  | _ => false

/-- x_DATA while x_RDY is driven for a read (10.1). -/
def State.dataOut (s : State) (p : Port) : Option Word :=
  match s.access p with
  | .done t w _ => if t.drive.wr then none else some w
  | _ => none

/-- x_ATTN (R163). -/
def State.attn (s : State) (p : Port) : Bool := (s.attention.get p).line

/-- M_REQ: raised at the grant, and falls when the cycle ends (R97). -/
def State.mReq (s : State) : Bool := s.cycle.isSome

/-- M_ADDR of the cycle in progress (R97). -/
def State.mAddr (s : State) : Option PhysAddr := s.cycle.map (·.addr)

/-- M_WR of the cycle in progress (R97). -/
def State.mWr (s : State) : Option Bool := s.cycle.map (·.wr)

/-- M_LANE of the cycle in progress (R97). -/
def State.mLane (s : State) : Option Lanes := s.cycle.map (·.lanes)

/-- M_DATA and M_PAR of a write cycle in progress (R97, R101). R97 and R101 give M_PAR the generated bits of the written
lanes and say nothing of the others: the model drives there the bits generated from M_DATA (DESIGN CHOICE,
notes/assumptions/25.md). -/
def State.mDataOut (s : State) : Option (Word × BitVec 4) :=
  match s.cycle with
  | some c => if c.wr then some (c.data, parityBits c.data) else none
  | none => none

end Sys2Proof.Machine
end

