-- ==== Sys2Proof/Safety.lean ====
section
/-! DEFINITION. The words in which statements about the block are made: when a port takes an access, what an event marks and
offers, and the laws that every step keeps. -/
namespace Sys2Proof.Machine

/-! ### What is due (R60, R63, R122) -/

/-- R60: the deadline is present, and "(clock - start) modulo 2^32 equals its limit". -/
def ReachedNow (s : State) (d : Option Deadline) : Prop :=
  ∃ x, d = some x ∧ s.clock - x.start = x.limit.setWidth 32

/-- The event that the part itself owes at this moment: the install once a drain finds no access TAKEN or IN CYCLE (R122); a
deadline reached, a freshness deadline only out of HOLDOVER (R60, R71); the frame tick of a TIMED group whose next frame time
the clock equals, in RUNNING (R63, R66). -/
def Due (s : State) : Instr → Prop
  | .install => (∃ l, s.loader = .draining l) ∧ ∀ p t, s.access p ≠ .taken t ∧ s.access p ≠ .inCycle t
  | .fillExpiry n => ∃ c q, s.channel? n = some c ∧ c.pass = some q ∧ ReachedNow s q.deadline
  | .freshnessDeadlineReached n => s.partState ≠ .holdover ∧ ∃ c, s.channel? n = some c ∧ ReachedNow s c.freshDl
  | .pinRelease g => ∃ gr q, s.group? g = some gr ∧ gr.pin = some q ∧ ReachedNow s q.deadline
  | .partialPublication g => ∃ gr q, s.group? g = some gr ∧ gr.gather = some q ∧ ReachedNow s q.deadline
  | .frameTick g => s.partState = .running ∧
      ∃ gr, s.group? g = some gr ∧ gr.desc.mode = some .timed ∧ gr.nextFrame = some s.clock
  | _ => False

/-- `t` is reached from `s` by events that are due, one after another, each with the effect of its own command. -/
inductive ReachedByDue : State → State → Prop where
  | refl (s : State) : ReachedByDue s s
  | event {s t u : State} (e : Instr) (due : Due s e) (run : exec e s = .next t) (rest : ReachedByDue t u) : ReachedByDue s u

/-! ### Accesses -/

/-- Port `p` takes what arrives at it: RST_N is high, REQ is low, the port is IDLE, the Loader is not DRAINING (R92). -/
def Takes (s : State) (p : Port) : Prop :=
  s.pins.rstN = true ∧ (s.ports.get p).req = false ∧ s.access p = .idle ∧ s.draining = false

/-- The state in which port `p` has raised REQ with `d` driven and its access has been taken with outcome `o` (R91, R92);
nothing else differs from `s`. -/
def State.taking (s : State) (p : Port) (d : Drive) (o : Decoded) (err : Bool) : State :=
  (drivePort p d s).setAccess p (.taken { drive := d, outcome := o, err := err, withdrawn := false })

/-- What a port command raises REQ with; none for the commands that raise no REQ. -/
def accessOf : Instr → Option (Port × Drive)
  | .accessArrivalHeld p d => some (p, d)
  | .portAccessTake p d => some (p, d)
  | .producerWrite p a l v => some (p, Drive.write a l v)
  | .producerRead p a => some (p, Drive.read a)
  | .consumerRead p a => some (p, Drive.read a)
  | .commitRequest p v => some (p, triggerDrive .commit v)
  | .enableTake p v => some (p, triggerDrive (.enable p) v)
  | .ackTake p v => some (p, triggerDrive (.ack p) v)
  | .jreadTake p v => some (p, triggerDrive (.jread p) v)
  | .rearmTake p v => some (p, triggerDrive (.rearm p) v)
  | _ => none

/-- The access record of port `p` while its access is in flight (R91). -/
def State.inFlight? (s : State) (p : Port) : Option Taken :=
  match s.access p with
  | .taken t => some t
  | .inCycle t => some t
  | _ => none

/-- R87: the decode of `d` at port `p` refuses the access as a violation of kind `k`, with the subject and the region that
its record names. -/
def Refuses (s : State) (p : Port) (d : Drive) (k : ViolationKind) (subject : Nat) (region : Option Nat) : Prop :=
  match k with
  | .owned => d.wr = true ∧ d.addr.toNat ≤ 0xFFF ∧ wordClass d.addr.toNat = .partOwned ∧ subject = 0 ∧ region = none
  | .table => d.wr = true ∧ d.addr.toNat ≤ 0xFFF ∧ wordClass d.addr.toNat = .table ∧ p ≠ s.configPort ∧ subject = 0 ∧
      region = none
  | .foreignTrigger => d.wr = true ∧ d.addr.toNat ≤ 0xFFF ∧
      (∃ t, wordClass d.addr.toNat = .trigger t ∧ p ≠ t.owner s.configPort) ∧ subject = 0 ∧ region = none
  | .rights => ∃ r phys g, landing s d.addr = .plain r phys g ∧ (g.rights p).allow d.wr = false ∧ subject = 0 ∧
      region = some r
  | .consumerWrite => d.wr = true ∧ (∃ off c, landing s d.addr = .channel subject off ∧ s.channel? subject = some c ∧
      c.desc.producer ≠ p) ∧ region = none

/-! ### Completions (R93, R94) -/

/-- R93, R94: where a port goes when its access completes: to DONE with the read data and ERR, to IDLE if REQ has fallen. -/
def Taken.ended (t : Taken) (rdata : Word) (err : Bool) : AccessState := if t.withdrawn then .idle else .done t rdata err

/-- R94: no arrival follows at the completion: REQ has not risen again under a withdrawn access. -/
def NoNewArrival (s : State) (p : Port) (t : Taken) : Prop := t.withdrawn = true → (s.ports.get p).req = false

/-- The completion of the access closes neither a pass nor a pin: it is to no closing word; or it is a closing write that
belongs to no pass or whose pass is no longer open (R10), or a closing read whose pin is no longer open. -/
def ClosesNothing (s : State) (t : Taken) : Prop :=
  ∀ a c, t.outcome = .channel a → a.closing = true → s.channel? a.ch = some c →
    match a.side with
    | .producer => t.drive.wr = true → ∀ f, c.pass = some f → a.passSeq ≠ some f.seq
    | .consumer => ∀ gr, s.group? c.desc.group = some gr → gr.pin = none

/-! ### Marks of Mirror items (R132) -/

/-- Item `i` waits to be written as it now stands: it is dirty, or in flight and marked changed. -/
def Marked (s : State) (i : MirrorItem) : Prop :=
  i ∈ s.mirror.dirty ∨ ∃ f, s.mirror.flight = some f ∧ f.item = i ∧ f.changed = true

/-- R132, R134: the update counts stand as they were, and so does the item in flight, with its captured content and the
cycles it has been granted: "The content captured at the first grant is written by every cycle of the item, whatever changes
meanwhile." -/
def SequencesKept (s t : State) : Prop :=
  t.mirror.chanCount = s.mirror.chanCount ∧ t.mirror.groupCount = s.mirror.groupCount ∧
  t.mirror.flight.map (fun f => (f.item, f.content, f.granted)) = s.mirror.flight.map fun f => (f.item, f.content, f.granted)

/-- Between `s` and `t` exactly the items of the list came to wait, beside those that waited before. -/
def MarkedAre (s t : State) (is : List MirrorItem) : Prop := ∀ i, Marked t i ↔ (Marked s i ∨ i ∈ is)

/-- Between `s` and `t` exactly the items of the list were marked, and the sequences being written are kept. -/
def Marks (s t : State) (is : List MirrorItem) : Prop := MarkedAre s t is ∧ SequencesKept s t

/-- The report words of the ports whose pending sets differ between `s` and `t` (R157). -/
def changedReports (s t : State) : List MirrorItem :=
  (([Port.A, Port.B] : List Port).filter fun p => pendingSet t p != pendingSet s p).map .report

/-! ### Records offered at one event (R138, R139, R148) -/

/-- The journal after the records are offered in order at clock value `now`. -/
def offers (now : Word) (j : Journal) (rs : List Record) : Journal := rs.foldl (fun j r => j.offer r now) j

/-- Whether one of the offers is the loss that takes the lost count from 0 to 1. -/
def offersLose (now : Word) : Journal → List Record → Bool
  | _, [] => false
  | j, r :: rs => lossBegins j (j.offer r now) || offersLose now (j.offer r now) rs

/-- The items that the offers mark. -/
def offersMark (now : Word) (p : Port) : Journal → List Record → List MirrorItem
  | _, [] => []
  | j, r :: rs => offerMarks p j (j.offer r now) ++ offersMark now p (j.offer r now) rs

/-- The attention state of a port to which causes `causes` are raised while `rs` are offered to its journal `j`. -/
def Attention.told (a : Attention) (causes : BitVec 12) (now : Word) (j : Journal) (rs : List Record) : Attention :=
  { a with latched := a.latched ||| causes ||| causeIf .journalLost (offersLose now j rs) }

/-- R37, R40, R41: the PUBLISHED records for port `x`'s journal when group `g` publishes its pending members, in chain
order. -/
def groupRecords (s : State) (g : Nat) (x : Port) : List Record :=
  (s.members g).filterMap fun m =>
    match s.channel? m with
    | some c =>
      match c.pend with
      | some q =>
        if c.desc.notify && c.desc.consumer == x then some (mkRecord .published m (some q.buf) 0 q.seq q.closeTime s.clock)
      else none
      | none => none
    | none => none

/-- R19: the record of channel `c` after its pending buffer, if it has one, is published at `now`. -/
def Channel.pendPublished (c : Channel) (now : Word) : Channel :=
  match c.pend with
  | some q =>
    { c with
      live := some q.buf
      pend := none
      pubCount := c.pubCount + 1
      lastPub := now
      cond := .fresh
      freshDl := formDeadline now c.desc.freshLimit }
  | none => c

/-- The members of group `g` that have a pending buffer, in chain order. -/
def pendingMembers (s : State) (g : Nat) : List Nat := (s.members g).filter s.hasPending

/-- R48: from `u`, in which group `g` stands as `gr` with a pin open, the pin has closed and the rest is as in `x`: the
records `rs` have been offered to the journal of the reader `p` and the causes raised for it. -/
def PinClosed (u x w : State) (g : Nat) (gr : Group) (p : Port) (rs : List Record) (causes : BitVec 12) : Prop :=
  w.group? g = some { gr with pin := none } ∧ (∀ h, h ≠ g → w.group? h = u.group? h) ∧
  (∀ m, w.channel? m = if m ∈ u.members g then (u.channel? m).map fun k => { k with held := none } else u.channel? m) ∧
  w = { x with
    channels := w.channels
    groups := w.groups
    journals := u.journals.set p (offers u.clock (u.journals.get p) rs)
    attention := u.attention.modify p fun b => b.told causes u.clock (u.journals.get p) rs
    mirror := w.mirror } ∧
  Marks u w (.groupBlock g ::
    ((u.members g).filter fun m =>
      match u.channel? m with
      | some k => k.held.isSome
      | none => false).map .chanBlock ++ offersMark u.clock p (u.journals.get p) rs ++ changedReports u w)

/-! ### What validation refuses (R117 to R120) -/

/-- The single checks that the steps of R117 make, each at the index of the entry it judges: steps 1 to 4, the walks and the
visits of step 5, step 6, the windows of step 7 (regions 0 to 15, then channels from 16 on), the regions and the buffers of
step 8. -/
inductive Check where
  | parameter
  | region (i : Nat)
  | channel (n : Nat)
  | group (g : Nat)
  | walk (g : Nat)
  | visit (n : Nat)
  | producers (g : Nat)
  | window (e : Nat)
  | regionSpan (i : Nat)
  | buffer (n k : Nat)
  deriving DecidableEq, Repr

/-- R117: "The checks are made in this order". -/
def checksInOrder : List Check :=
  [.parameter] ++ (List.range 16).map .region ++ (List.range 24).map .channel ++ (List.range 24).map .group ++
    (List.range 24).map .walk ++ (List.range 24).map .visit ++ (List.range 24).map .producers ++ (List.range 40).map .window ++
    (List.range 16).map .regionSpan ++ (List.range 24).flatMap fun n => (List.range 4).map (.buffer n)

/-- R118, 10.5: "fault-signal A or fault-signal B holds an undefined code", 00b or 11b. -/
abbrev BadParam (w : Word) : Prop :=
  w.extractLsb' 8 2 = 0b00#2 ∨ w.extractLsb' 8 2 = 0b11#2 ∨ w.extractLsb' 10 2 = 0b00#2 ∨ w.extractLsb' 10 2 = 0b11#2

/-- R118: the window of `len` addresses from `base` lies below 1000h at its start or above FFFFh at its end. -/
abbrev BadWindow (base len : Nat) : Prop := base < 0x1000 ∨ 0xFFFF < base + len - 1

/-- R118, 10.6: "rights A or rights B holds the undefined code" 10b; "length is 0 or above F000h"; the window. -/
abbrev BadRegion (r : RegionWords) : Prop :=
  r.w0.extractLsb' 4 2 = 0b10#2 ∨ r.w0.extractLsb' 6 2 = 0b10#2 ∨ r.len.toNat = 0 ∨ 0xF000 < r.len.toNat ∨
    BadWindow r.lbase.toNat r.len.toNat

/-- R118: "depth is not 2, 3 or 4; group number is above 23; next-member is neither 0 to 23 nor END; length is 0 or above
4096"; the window. -/
abbrev BadChannel (d : ChanDesc) : Prop :=
  (d.depth ≠ 2 ∧ d.depth ≠ 3 ∧ d.depth ≠ 4) ∨ 23 < d.group ∨ (23 < d.nextMember ∧ d.nextMember ≠ 31) ∨ d.len = 0 ∨
    4096 < d.len ∨ BadWindow d.lbase d.len

/-- R118, 10.6: "mode holds the undefined code" 00b; "first member is above 23; for a TIMED group, period is 0, or phase is
not below period". -/
abbrev BadGroup (d : GroupDesc) : Prop :=
  d.w0.extractLsb' 4 2 = 0b00#2 ∨ 23 < d.first ∨
    (d.w0.extractLsb' 4 2 = 0b10#2 ∧ (d.period.toNat = 0 ∨ d.period.toNat ≤ d.phase.toNat))

/-- R119: the member that the walk of group `g` reaches after `k` next-member fields. -/
def Load.member (l : Load) (g : Nat) : Nat → Nat
  | 0 => (l.group g).first
  | k + 1 => (l.chan (l.member g k)).nextMember

/-- R119: the walk of group `g` that ends at END after `n` members does not fail at member `k`: it is a valid channel of the
group, not visited before, and names END, 31, exactly if it is the last. -/
abbrev Load.WalksOn (l : Load) (g n k : Nat) : Prop :=
  l.member g k < 24 ∧ (l.chan (l.member g k)).valid = true ∧ (l.chan (l.member g k)).group = g ∧
    ((l.chan (l.member g k)).nextMember = 31 ↔ k + 1 = n) ∧ ∀ j, j < k → l.member g j ≠ l.member g k

/-- R119: the walk of group `g` ends at END after `n` members without failing. -/
def Load.walksTo (l : Load) (g n : Nat) : Bool := decide (1 ≤ n ∧ ∀ k, k < n → l.WalksOn g n k)

/-- Two spans, each given by its base and its length, share an address. -/
abbrev Meet (base len base' len' : Nat) : Prop := base < base' + len' ∧ base' < base + len

/-- R120: logical window `e` in table order, a region's for 0 to 15, that of channel `e - 16` from 16 on: whether its entry is
valid, its base, its length, and its entry as a detail. -/
def Load.window (l : Load) (e : Nat) : Bool × Nat × Nat × Detail :=
  if e < 16 then
    ((l.region e).valid, (l.region e).lbase.toNat, (l.region e).len.toNat, { table := .region, index := BitVec.ofNat 12 e })
  else
    ((l.chan (e - 16)).valid, (l.chan (e - 16)).lbase, (l.chan (e - 16)).len,
      { table := .channel, index := BitVec.ofNat 12 (e - 16) })

/-- R120: buffer `k` of channel `n` shares an address with the span given. -/
abbrev Load.BufferMeets (l : Load) (n k base len : Nat) : Prop :=
  (l.chan n).valid = true ∧ k < (l.chan n).depth ∧ Meet ((l.chan n).base k).toNat (l.chan n).len base len

/-- R120: the span of buffer `k` of channel `n` shares an address with the control area, a region's window, an earlier buffer
of the channel, or a buffer of an earlier channel. -/
abbrev Load.BufferOverlaps (l : Load) (n k : Nat) : Prop :=
  ((l.chan n).base k).toNat < 0x1000 ∨
  (∃ i, i < 16 ∧ (l.region i).valid = true ∧
    Meet (l.region i).pbase.toNat (l.region i).len.toNat ((l.chan n).base k).toNat (l.chan n).len) ∨
  (∃ j, j < k ∧ l.BufferMeets n j ((l.chan n).base k).toNat (l.chan n).len) ∨
  (∃ m, m < n ∧ ∃ j, j < 4 ∧ l.BufferMeets m j ((l.chan n).base k).toNat (l.chan n).len)

/-- R117 to R120: the result code and the detail with which a check refuses the table set, if it does, given that the checks
before it have passed. "An entry or descriptor whose valid field is no takes no part in any step". -/
def Load.refuses (l : Load) (fitted : Nat) (c : Check) : Option (ResultCode × Detail) :=
  let at_ : TableCode → Nat → Detail := fun t i => { table := t, index := BitVec.ofNat 12 i }
  match c with
  | .parameter => if BadParam l.param then some (.badParam, at_ .parameter 0) else none
  | .region i => if (l.region i).valid = true ∧ BadRegion (l.region i) then some (.badRegion, at_ .region i) else none
  | .channel n => if (l.chan n).valid = true ∧ BadChannel (l.chan n) then some (.badChannel, at_ .channel n) else none
  | .group g => if (l.group g).valid = true ∧ BadGroup (l.group g) then some (.badGroup, at_ .group g) else none
  | .walk g =>
    if (l.group g).valid = true ∧ ¬ ∃ n ∈ List.range 25, l.walksTo g n = true then some (.chainBroken, at_ .group g) else none
  | .visit n =>
    if (l.chan n).valid = true ∧ ¬ ((l.group (l.chan n).group).valid = true ∧
      ∃ m ∈ List.range 25, l.walksTo (l.chan n).group m = true ∧ ∃ k, k < m ∧ l.member (l.chan n).group k = n) then
      some (.chainBroken, at_ .channel n)
    else none
  | .producers g =>
    if (l.group g).valid = true ∧
      ∃ n ∈ List.range 25, l.walksTo g n = true ∧ ∃ k, k < n ∧ (l.chan (l.member g k)).producer ≠ (l.chan (l.member g 0)).producer then
      some (.mixedProducer, at_ .group g)
    else none
  | .window e =>
    if (l.window e).1 = true ∧ ∃ f, f < e ∧ (l.window f).1 = true ∧
      Meet (l.window f).2.1 (l.window f).2.2.1 (l.window e).2.1 (l.window e).2.2.1 then
      some (.logicalOverlap, (l.window e).2.2.2)
    else none
  | .regionSpan i =>
    if (l.region i).valid = false then none
    else if fitted < (l.region i).pbase.toNat + (l.region i).len.toNat then some (.beyondFitted, at_ .region i)
    else if (l.region i).pbase.toNat < 0x1000 then some (.physicalOverlap, at_ .region i)
    else none
  | .buffer n k =>
    if (l.chan n).valid = false ∨ (l.chan n).depth ≤ k then none
    else if fitted < ((l.chan n).base k).toNat + (l.chan n).len then some (.beyondFitted, at_ .channel n)
    else if l.BufferOverlaps n k then some (.physicalOverlap, at_ .channel n)
    else none

/-! ### Loads and installs (R113, R121, R126 to R129) -/

/-- R121, R113: from `u`, at the end of a Loader cycle, the load begun at `start` has failed with result `r`. -/
def LoadFailed (u w : State) (r : LoadResult) (start : Word) : Prop :=
  let rs := [commitRecord r start u.clock]
  w = { u with
    cycle := none
    lastResult := r
    loader := match u.remembered with
      | some gen => .reading { gen := gen, start := u.clock, words := [], firstFail := none, cands := [], resume := [] }
      | none => .idle
    remembered := none
    journals := { a := offers u.clock u.journals.a rs, b := offers u.clock u.journals.b rs }
    attention := { a := u.attention.a.told Cause.commit.bit u.clock u.journals.a rs
                   b := u.attention.b.told Cause.commit.bit u.clock u.journals.b rs }
    mirror := w.mirror } ∧
  Marks u w ([.part 1, .part 2, .part 3] ++ offersMark u.clock .A u.journals.a rs ++
    offersMark u.clock .B u.journals.b rs ++ changedReports u w)

/-- R126: the records for journal `x` when channel `n` ends at the install of `l`: its open pass, then its pending buffer. -/
def endedChannelRecords (s : State) (l : Load) (x : Port) (n : Nat) : List Record :=
  match s.channel? n with
  | some c =>
    if carriesChannel s l n || c.desc.producer != x then []
    else
      (match c.pass with
        | some q => [mkRecord .fillAborted n q.target.buffer? (flagBit 0 true) q.seq q.openTime s.clock]
        | none => []) ++
      (match c.pend with
        | some q => [mkRecord .fillAborted n (some q.buf) (flagBit 0 true ||| flagBit 1 true) q.seq q.openTime s.clock]
        | none => [])
  | none => []

/-- R128: the records for journal `x` when group `g` ends at the install of `l`: its pin, then the pending buffers of its
carried members in chain order. -/
def endedGroupRecords (s : State) (l : Load) (x : Port) (g : Nat) : List Record :=
  match s.group? g with
  | some gr =>
    if carriesGroup s l g then []
    else
      (match gr.pin with
        | some q =>
          if s.groupConsumer g = x then
            [mkRecord .pinExpired g none (flagBit 1 true ||| flagBit 2 q.tainted)
              (channelMask ((s.members g).filter s.holdsOld)) q.openTime s.clock]
          else []
        | none => []) ++
      (s.members g).filterMap fun m =>
        match s.channel? m with
        | some c =>
          match c.pend with
          | some q =>
            if carriesChannel s l m && c.desc.producer == x then
              some (mkRecord .fillAborted m (some q.buf) (flagBit 0 true ||| flagBit 1 true) q.seq q.openTime s.clock)
            else none
          | none => none
        | none => none
  | none => []

/-- R125: the RESUMED record of channel `n`, where it is created and resumed. -/
def resumedRecords (s : State) (l : Load) (n : Nat) : List Record :=
  if (l.chan n).valid && !carriesChannel s l n then
    match l.resumed n with
    | some b => [mkRecord .resumed n (some b) 0 ((l.chan n).signature.setWidth 32) s.clock 0]
    | none => []
  else []

/-- R129: the records for journal `x` at the install of `l`, in their order. -/
def installRecords (s : State) (l : Load) (x : Port) : List Record :=
  (List.range 24).flatMap (endedChannelRecords s l x) ++ (List.range 24).flatMap (endedGroupRecords s l x) ++
    (List.range 24).flatMap (resumedRecords s l) ++
    [commitRecord { gen := l.gen, code := .ok, detail := { table := .none, index := 0 } } l.start s.clock]

/-- R128, R129: the install of `l` releases a pin whose consumer is port `x`. -/
def releasesPinOf (s : State) (l : Load) (x : Port) : Bool :=
  (List.range 24).any fun g =>
    match s.group? g with
    | some gr => gr.pin.isSome && !carriesGroup s l g && s.groupConsumer g == x
    | none => false

/-! ### Laws that every step keeps -/

/-- The SRAM's lists are in their canonical form. -/
def MemoryLaw (s : State) : Prop := s.mem.wf = true

/-- R55: the divisor lies in 1 to 256 and the prescaler count in 0 to divisor - 1. -/
def PrescalerLaw (s : State) : Prop := 1 ≤ s.divisor ∧ s.divisor ≤ 256 ∧ s.prescaler < s.divisor

/-- R163: "A port's attention line is asserted exactly while the pending set of that port's last completed report write
shares a cause with its current enable set." -/
def LineLaw (s : State) : Prop :=
  ∀ p, (s.attention.get p).line = true ↔ ∃ n : Nat, (s.attention.get p).reported.getLsbD n = true ∧
    (s.attention.get p).enable.getLsbD n = true

/-- The target buffer of an open pass, if it has one (R4: FILLING). -/
def Channel.filling (c : Channel) : Option Nat :=
  match c.pass with
  | some p => p.target.buffer?
  | none => none

/-- The index of the pending buffer, if there is one. -/
def Channel.pendBuf (c : Channel) : Option Nat := c.pend.map (·.buf)

/-- R4: "the filling, pending and live buffers, where present, are three different buffers, and the held buffer, where
present, is neither the filling nor the pending buffer"; R2: "A buffer index lies in the range 0 to depth - 1." -/
def Channel.roleLaw (c : Channel) : Prop :=
  (∀ b, c.filling = some b → b < c.desc.depth ∧ c.pendBuf ≠ some b ∧ c.live ≠ some b ∧ c.held ≠ some b) ∧
  (∀ b, c.pendBuf = some b → b < c.desc.depth ∧ c.live ≠ some b ∧ c.held ≠ some b) ∧
  (∀ b, c.live = some b → b < c.desc.depth) ∧
  (∀ b, c.held = some b → b < c.desc.depth)

/-- R4 in every installed channel. -/
def RoleLaw (s : State) : Prop := ∀ n c, s.channel? n = some c → c.roleLaw

/-- R173, R174: in HOLDOVER no fill pass is open, no gather runs, the Loader is IDLE; and an IDLE Loader holds no
remembered request (R113). -/
def HoldoverLaw (s : State) : Prop :=
  (s.loader = .idle → s.remembered = none) ∧
  (s.partState = .holdover →
    (∀ n c, s.channel? n = some c → c.pass = none) ∧ (∀ g gr, s.group? g = some gr → gr.gather = none) ∧
      s.loader = .idle)

/-- R132: an item in flight has been granted a cycle and no more than it has; while it has been granted them all, the last
is in progress. -/
def FlightLaw (s : State) : Prop :=
  ∀ f, s.mirror.flight = some f → 1 ≤ f.granted ∧ f.granted ≤ f.item.cycles ∧
    (f.granted = f.item.cycles → ∃ c, s.cycle = some c ∧ c.use = .mirror)

/-- R133: "A dirty item that these constraints allow is started before any other item is started twice": the model's record of
who has been passed by whom (notes/assumptions/9.md) holds no circle, so some allowed item may always be started. -/
def MirrorOrderLaw (s : State) : Prop := ∃ rank : MirrorItem → Nat, ∀ q ∈ s.mirror.passed, rank q.1 < rank q.2

/-- Slot `k` of journal `p` is dirty or in flight. -/
def slotWaits (s : State) (p : Port) (k : BitVec 7) : Prop :=
  .slot p k ∈ s.mirror.dirty ∨ ∃ f, s.mirror.flight = some f ∧ f.item = .slot p k

/-- R137 for journal `p`: H lies in the span from Rd to W and C between the two; with what it rests on (R142 to R144): the
slots that wait are those from C to W - 1, a slot in flight is the one at C and does not change, a head word in flight
carries an index from H to C. -/
def journalLaw (s : State) (p : Port) : Prop :=
  let j := s.journals.get p
  j.h - j.rd ≤ j.c - j.rd ∧ j.c - j.rd ≤ j.w - j.rd ∧
  (∀ k, slotWaits s p k ↔ k - j.c < j.w - j.c) ∧
  (∀ f k, s.mirror.flight = some f → f.item = .slot p k →
    k = j.c ∧ f.changed = false ∧ .slot p k ∉ s.mirror.dirty) ∧
  (∀ f, s.mirror.flight = some f → f.item = .head p →
    j.h - j.rd ≤ headIndexOf (f.content.getD 0 0) - j.rd ∧ headIndexOf (f.content.getD 0 0) - j.rd ≤ j.c - j.rd)

/-- R137 for both journals, with the law of the item in flight. -/
def JournalLaw (s : State) : Prop := FlightLaw s ∧ ∀ p, journalLaw s p

/-- R168: while RST_N is low no access is in flight, the M port is free, no channel, group or region is installed, and the
Loader is IDLE. -/
def ResetLaw (s : State) : Prop :=
  s.pins.rstN = false →
    (∀ p, s.access p = .idle) ∧ s.cycle = none ∧ (∀ n, s.channel? n = none) ∧ (∀ g, s.group? g = none) ∧
      (∀ r, s.region? r = none) ∧ s.loader = .idle

/-- A Mirror item lies in the control area (R110, R131). -/
def MirrorItem.inArea : MirrorItem → Prop
  | .part n => n ≤ 4
  | .chanBlock n => n < 24
  | .groupBlock n => n < 24
  | _ => True

/-- R86, R76: "The M port never drives an address at or above the fitted size." With what that rests on: what a drain will
install has passed validation, every installed window and buffer ends below the fitted size, buffer indices lie below the
depth, and the part's own items and reads lie in the control area. -/
def FittedLaw (s : State) : Prop :=
  (∀ c, s.cycle = some c → c.addr.toNat < fittedWords s.msz) ∧
  (∀ p t a, s.inFlight? p = some t → t.outcome.phys? = some a → a.toNat < fittedWords s.msz) ∧
  (∀ n c, s.channel? n = some c → c.roleLaw ∧ c.desc.depth ≤ 4 ∧
    ∀ k, k < c.desc.depth → (c.desc.base k).toNat + c.desc.len ≤ fittedWords s.msz) ∧
  (∀ r g, s.region? r = some g → g.pbase.toNat + g.len.toNat ≤ fittedWords s.msz) ∧
  (∀ l, s.loader = .draining l → l.validate (fittedWords s.msz) = none) ∧
  (∀ l, s.loader = .reading l → ∀ n ∈ l.cands, n < 24) ∧
  (∀ i ∈ s.mirror.dirty, i.inArea) ∧ (∀ f, s.mirror.flight = some f → f.item.inArea) ∧
  ResetLaw s

/-- R64, R118: the period of every installed TIMED group is at least 1; with what it rests on: what a drain will install has
passed validation. -/
def FrameLaw (s : State) : Prop :=
  (∀ g gr, s.group? g = some gr → gr.desc.mode = some .timed → gr.desc.period ≠ 0) ∧
  (∀ l, s.loader = .draining l → ∃ fitted, l.validate fitted = none)

/-- R31: the chain of every installed group begins at its first member, goes on by next-member fields until END, and visits
installed channels that name the group, none twice, all with one producer (R30); with what it rests on: what a drain will
install has passed validation. -/
def ChainLaw (s : State) : Prop :=
  (∀ g gr, s.group? g = some gr →
    (s.members g)[0]? = some gr.desc.first ∧
      (∀ k m, (s.members g)[k]? = some m → ∃ c, s.channel? m = some c ∧
        (s.members g)[k + 1]? = if c.desc.nextMember = 31 then none else some c.desc.nextMember) ∧
      (s.members g).Nodup ∧
      ∀ m ∈ s.members g, ∃ c, s.channel? m = some c ∧ c.desc.group = g ∧ c.desc.producer = s.groupProducer g) ∧
  (∀ n c, s.channel? n = some c → n ∈ s.members c.desc.group) ∧
  (∀ l, s.loader = .draining l → ∃ fitted, l.validate fitted = none)

end Sys2Proof.Machine
end

