-- ==== Sys2Proof/Certificates/Slice0/Obligations.lean ====
section
/-! DEFINITION. The statements for the provers. Where a statement says `exec c s = .next (grant w)`, `w` is the state in
which the command has had its effect, and `grant` is the arbiter's part of the same event (R98), which
`Obligations.AGrantChangesOnlyWhatItServes` bounds. Where a command comes from outside the part, `settle s` is the state
in which the deadlines and frame times reached at this moment have been acted on (R60), as
`Obligations.NothingDueSettlesToItself` says; it is `s` itself where nothing is due. A frame is written
`w = (u with ... )`: every field not named is as it was. -/
open Sys2Proof Sys2Proof.Machine

/-! ### The queue and the events that are due -/

/-- A step takes the command at the front of the queue and runs it on the state with the queue's rest; on an empty queue the
block idles, which is the model's choice (notes/assumptions/1.md). -/
def Obligations.StepRunsTheFrontCommand : Prop :=
  (∀ (s : State) (c : Instr) (rest : List Instr), s.pending = c :: rest → step s = exec c { s with pending := rest }) ∧
  (∀ s : State, s.pending = [] → step s = .next s)

/-- Every command answers a next state and leaves the queue as it is. -/
def Obligations.EveryCommandAnswersAndKeepsTheQueue : Prop :=
  ∀ (i : Instr) (s : State), ∃ t, exec i s = .next t ∧ t.pending = s.pending

/-- R60, R63, R122: the model's settling (notes/assumptions/4.md), which comes before every command from outside the part, acts
on what is due and on nothing else. It comes to its state by due events only, each with the effect of its own command, and
nothing is due after it, where the period of every TIMED group is at least 1 and what drains has passed validation
(`FrameLaw`); where nothing is due it does nothing. `Due` says what is due: an install once a drain finds no access in flight,
a deadline reached, a next frame time equal to the clock. -/
def Obligations.NothingDueSettlesToItself : Prop :=
  (∀ s : State, settled s = true ↔ ∀ e, ¬ Due s e) ∧
  (∀ s : State, settled s = true → settle s = s) ∧
  (∀ s : State, ReachedByDue s (settle s)) ∧
  (∀ s : State, FrameLaw s → settled (settle s) = true)

/-- The part does not see the name of a port command: each does what the access it drives decodes to
(notes/assumptions/2.md). -/
def Obligations.EveryPortCommandPresentsItsAccess : Prop :=
  ∀ (i : Instr) (p : Port) (d : Drive) (s : State), accessOf i = some (p, d) → exec i s = exec (.portAccessTake p d) s

/-! ### Memory and check bits (R97, R101, R102, R107, R171) -/

/-- Only the end of a write cycle and the fall of RST_N touch memory: every other command, and the end of a read cycle, leave
every byte and every check bit as it was. -/
def Obligations.OnlyAWriteCycleOrAResetTouchesMemory : Prop :=
  ∀ (i : Instr) (s t : State), i ≠ .resetAssert →
    (i = .memoryCycleEnd → ∀ c, (settle s).cycle = some c → c.wr = false) → exec i s = .next t → t.mem = s.mem

/-- R101, R97: at the end of a write cycle each driven lane of the word addressed holds its byte and the check bit that makes
the count of ones odd; every other lane of every word keeps its byte and its check bit. R102: a lane is named in error exactly
when its eight data bits and its check bit hold an even number of ones. -/
def Obligations.AWriteCycleLandsInItsDrivenLanes : Prop :=
  (∀ (s t : State) (c : MCycle), s.mem.wf = true → (settle s).cycle = some c → c.wr = true →
    exec .memoryCycleEnd s = .next t →
    ∀ (a : PhysAddr) (i : Nat), i < 4 →
      (a = c.addr ∧ c.lanes.getLsbD i = true →
        t.mem.byte a i = c.data.extractLsb' (8 * i) 8 ∧
        (((List.range 8).filter (t.mem.byte a i).getLsbD).length + (t.mem.chk a i).toNat) % 2 = 1) ∧
      (¬ (a = c.addr ∧ c.lanes.getLsbD i = true) →
        t.mem.byte a i = s.mem.byte a i ∧ t.mem.chk a i = s.mem.chk a i)) ∧
  (∀ (m : Sram) (a : PhysAddr) (i : Nat), i < 4 →
    ((m.errors a).getLsbD i = true ↔
      (((List.range 8).filter (m.byte a i).getLsbD).length + (m.chk a i).toNat) % 2 = 0))

/-- R107, R171: a fall of RST_N leaves every lane of every word as it was, but for the lanes that a write cycle in progress
drove; in those, either the old byte and check bit, or the new ones, or a check bit that disagrees with the data. -/
def Obligations.AResetSparesAllButTheLanesBeingWritten : Prop :=
  ∀ (s t : State), s.mem.wf = true → exec .resetAssert s = .next t →
    ∀ (a : PhysAddr) (i : Nat), i < 4 →
      (t.mem.byte a i = s.mem.byte a i ∧ t.mem.chk a i = s.mem.chk a i) ∨
      ∃ c, (settle s).cycle = some c ∧ c.wr = true ∧ a = c.addr ∧ c.lanes.getLsbD i = true ∧
        ((t.mem.byte a i = laneByte c.data i ∧ t.mem.chk a i = checkBit (laneByte c.data i)) ∨
          laneInError (t.mem.byte a i) (t.mem.chk a i) = true)

/-! ### The arbiter (R97, R98, R100) -/

/-- R97, R98, R100, R161, R168: the grant at the end of an event changes only the cycle of the M port, the access state of the
port granted (from TAKEN to IN CYCLE), the last-granted requester, the Mirror and the report sequence, beside the model's own
bookkeeping (notes/assumptions/8.md, 20.md). Where no grant is made, because a cycle is in progress, RST_N is low, an install
is owed (notes/assumptions/14.md) or no requester waits, it changes none of them. -/
def Obligations.AGrantChangesOnlyWhatItServes : Prop :=
  ∀ w : State,
    let t := grant w
    t = { w with
      cycle := t.cycle, ports := t.ports, lastGranted := t.lastGranted, requestLines := t.requestLines,
      mirror := t.mirror, attention := t.attention, freeCtr := t.freeCtr } ∧
    (∀ p, ((t.attention.get p).latched = (w.attention.get p).latched ∧ (t.attention.get p).enable = (w.attention.get p).enable ∧
      (t.attention.get p).reported = (w.attention.get p).reported ∧ (t.attention.get p).line = (w.attention.get p).line) ∧
      ((t.ports.get p).req = (w.ports.get p).req ∧ (t.ports.get p).inputs = (w.ports.get p).inputs ∧
        (t.ports.get p).faultSignal = (w.ports.get p).faultSignal) ∧
      (t.access p = w.access p ∨ ∃ r, w.access p = .taken r ∧ t.access p = .inCycle r)) ∧
    (w.cycle ≠ none ∨ w.pins.rstN = false ∨ installOwed w = true ∨ (∀ r, waits w r = false) →
      t.cycle = w.cycle ∧ t.ports = w.ports ∧ t.lastGranted = w.lastGranted ∧ t.mirror = w.mirror ∧
        t.attention = w.attention)

/-- R98, R99: whenever the M port is free and a requester waits, one that waits is granted. One that waits alone is granted,
whether it waited before or has just begun to wait. Where all that wait were waiting before, the grant goes to the first of
them after the last-granted one in the order A, B, ENGINE; none that was waiting before and stands earlier in that order than
the one granted is passed over. The one granted becomes the last-granted. A granted port goes to IN CYCLE with its own cycle,
and the Engine makes the Loader's next read first (R100); `Obligations.AMirrorGrantWritesOneItem` says what it does where the
Loader has no read to make. A grant to a port leaves the other port's access, the Mirror and both report sequences as they
were; one to the Engine leaves both ports as they were, and one to the Loader the Mirror and the report sequences too. A port
waits while it is TAKEN with an access that needs a cycle, the Engine while the Loader has a read to make or the Mirror an
item to write. -/
def Obligations.TheRotationGrantsTheFirstWaiting : Prop :=
  (∀ w : State, w.pins.rstN = true → w.cycle = none → installOwed w = false →
    let order := searchOrder w.lastGranted
    let r := (grant w).lastGranted
    (∀ q, waits w q = true → (∀ x, waits w x = true → x = q) → r = q) ∧
    (∀ q, (∀ x, waits w x = true → w.requestLines.has x = true) → order.find? (waits w) = some q → r = q) ∧
    ((∃ q, waits w q = true) →
      waits w r = true ∧
      (∀ q, waits w q = true → w.requestLines.has q = true → order.idxOf r ≤ order.idxOf q) ∧
      (∀ p, r = .port p → ∃ t a, w.access p = .taken t ∧ t.outcome.phys? = some a ∧ (grant w).access p = .inCycle t ∧
        (grant w).cycle = some
          { use := .port p
            addr := a
            wr := t.drive.wr
            lanes := if t.drive.wr then t.drive.lanes else 0xF
            data := if t.drive.wr then t.drive.data else 0 } ∧
        (grant w).access p.other = w.access p.other ∧ (grant w).mirror = w.mirror ∧ (grant w).attention = w.attention) ∧
      (r = .engine → (grant w).ports = w.ports ∧ ∀ a, loaderNext w = some a →
        (grant w).cycle = some { use := .loader, addr := a, wr := false, lanes := 0xF, data := 0 } ∧
        (grant w).mirror = w.mirror ∧ (grant w).attention = w.attention))) ∧
  (searchOrder (.port .A) = [.port .B, .engine, .port .A] ∧ searchOrder (.port .B) = [.engine, .port .A, .port .B] ∧
    searchOrder .engine = [.port .A, .port .B, .engine]) ∧
  (∀ w : State,
    (∀ p, waits w (.port p) = true ↔ ∃ t a, w.access p = .taken t ∧ t.outcome.phys? = some a) ∧
    (waits w .engine = true ↔ (∃ a, loaderNext w = some a) ∨ w.mirror.dirty ≠ [] ∨
      ∃ f, w.mirror.flight = some f ∧ f.granted < f.item.cycles) ∧
    (w.cycle = none → ∀ a, loaderNext w = some a ↔ ∃ l, w.loader = .reading l ∧ l.nextRead = some a))

/-- R132, R133, R134, R144, R161: an Engine grant that the Loader does not use serves the item in flight, or starts a dirty
item, a slot in ring order, and captures its content; it drives the item's next word with all four lanes. R110, R131, 10.2:
each item has its address and its number of cycles. A status block's update count advances at its first and its last cycle,
which both write its first word with the new count; the report sequence advances at the grant of a report word; the item
started is no longer dirty. The content is the internal value at the grant: of B0 to B4 the codes of the part, the state of
part and Loader, the result and detail of the last load, the straps and the divisor; of a report word the pending set (the
latched causes and the level causes that hold: R156, R157), the lowest cause in it that is enabled (15 where there is none)
and the advanced sequence; of a head word C and L; of a slot its record; of a status block the words of its runtime record.
R181, R182: every other bit of these words is 0. `FlightLaw` and `MirrorOrderLaw` rule out states that no run reaches. -/
def Obligations.AMirrorGrantWritesOneItem : Prop :=
  (∀ w : State, w.pins.rstN = true → w.cycle = none → installOwed w = false →
    waits w .engine = true → (grant w).lastGranted = .engine → loaderNext w = none →
    FlightLaw w → MirrorOrderLaw w → (∀ i ∈ w.mirror.dirty, i.inArea) → (∀ f, w.mirror.flight = some f → f.item.inArea) →
    ∃ f : Flight,
      let m := w.mirror
      let m' := (grant w).mirror
      let last : Bool := f.granted + 1 == f.item.cycles
      let counts : Bool := f.item.isBlock && (f.granted == 0 || last)
      let k : Nat := if f.item.isBlock && last then 0 else f.granted
      (m.flight = some f ∨ (m.flight = none ∧ f.item ∈ m.dirty ∧
        f = { item := f.item, content := itemContent w f.item, granted := 0, changed := false })) ∧
      m'.flight = some { f with granted := f.granted + 1 } ∧
      (grant w).cycle = some
        { use := .mirror
          addr := BitVec.ofNat 17 (f.item.base + k)
          wr := true
          lanes := 0xF
          data := f.content.getD k 0 ||| (if counts then (m.count f.item + 1).setWidth 32 else 0) } ∧
      (∀ i, m'.count i = if i = f.item ∧ counts = true then m.count i + 1 else m.count i) ∧
      (∀ i, i ∈ m'.dirty ↔ i ∈ m.dirty ∧ (f.granted = 0 → i ≠ f.item)) ∧
      (∀ p k k', f.granted = 0 → f.item = .slot p k → .slot p k' ∈ m.dirty →
        (k - (w.journals.get p).c).toNat ≤ (k' - (w.journals.get p).c).toNat) ∧
      (∀ p, ((grant w).attention.get p).repSeq =
        if f.item = .report p then (w.attention.get p).repSeq + 1 else (w.attention.get p).repSeq)) ∧
  (∀ n : Nat, (MirrorItem.part n).base = n ∧ (MirrorItem.part n).cycles = 1 ∧ (MirrorItem.part n).isBlock = false ∧
    (MirrorItem.chanBlock n).base = 0x200 + 4 * n ∧ (MirrorItem.chanBlock n).cycles = 5 ∧
    (MirrorItem.chanBlock n).isBlock = true ∧ (MirrorItem.groupBlock n).base = 0x260 + 2 * n ∧
    (MirrorItem.groupBlock n).cycles = 3 ∧ (MirrorItem.groupBlock n).isBlock = true) ∧
  ((MirrorItem.report .A).base = 0x020 ∧ (MirrorItem.report .B).base = 0x028 ∧ (MirrorItem.head .A).base = 0x021 ∧
    (MirrorItem.head .B).base = 0x029) ∧
  (∀ (p : Port) (k : BitVec 7), (MirrorItem.slot p k).base = (if p = .A then 0x400 else 0x600) + 4 * k.toNat ∧
    (MirrorItem.slot p k).cycles = 4 ∧ (MirrorItem.slot p k).isBlock = false ∧
    (MirrorItem.report p).cycles = 1 ∧ (MirrorItem.report p).isBlock = false ∧
    (MirrorItem.head p).cycles = 1 ∧ (MirrorItem.head p).isBlock = false) ∧
  (∀ w : State, ∃ b1 b2 b3 b4 : Word,
    itemContent w (.part 0) = [0x1C5A2404#32] ∧ itemContent w (.part 1) = [b1] ∧ itemContent w (.part 2) = [b2] ∧
    itemContent w (.part 3) = [b3] ∧ itemContent w (.part 4) = [b4] ∧
    b1.extractLsb' 0 16 = w.installedGen ∧
    b1.extractLsb' 16 2 = (match w.partState with
      | .unconfigured => 0b00#2
      | .running => 0b01#2
      | .holdover => 0b10#2) ∧
    b1.extractLsb' 18 2 = (match w.loader with
      | .idle => 0b00#2
      | .reading _ => 0b01#2
      | .draining _ => 0b10#2) ∧
    b1.getLsbD 20 = w.remembered.isSome ∧ b1.extractLsb' 21 11 = 0 ∧
    b2.extractLsb' 0 16 = w.lastResult.gen ∧
    b2.extractLsb' 16 8 = (match w.lastResult.code with
      | .ok => 0x00#8
      | .badParam => 0x01#8
      | .badRegion => 0x02#8
      | .badChannel => 0x03#8
      | .badGroup => 0x04#8
      | .logicalOverlap => 0x05#8
      | .physicalOverlap => 0x06#8
      | .beyondFitted => 0x07#8
      | .chainBroken => 0x08#8
      | .mixedProducer => 0x09#8
      | .parity => 0x0A#8
      | .abandoned => 0x0B#8) ∧
    b2.extractLsb' 24 8 = 0 ∧
    b3.extractLsb' 0 12 = w.lastResult.detail.index ∧
    b3.extractLsb' 12 3 = (match w.lastResult.detail.table with
      | .none => 0b000#3
      | .parameter => 0b001#3
      | .region => 0b010#3
      | .channel => 0b011#3
      | .group => 0b100#3) ∧
    b3.extractLsb' 15 17 = 0 ∧
    1024 * (b4.extractLsb' 0 8).toNat = fittedWords w.msz ∧ b4.extractLsb' 8 2 = w.msz ∧ b4.extractLsb' 10 2 = 0 ∧
    b4.getLsbD 12 = (w.configPort == .B) ∧ b4.extractLsb' 13 3 = 0 ∧
    (PrescalerLaw w → (b4.extractLsb' 16 9).toNat = w.divisor) ∧ b4.extractLsb' 25 7 = 0) ∧
  (∀ (w : State) (p : Port), ∃ r : Word, itemContent w (.report p) = [r] ∧
    let both := pendingSet w p &&& (w.attention.get p).enable
    r.extractLsb' 0 12 = pendingSet w p ∧ r.extractLsb' 16 16 = (w.attention.get p).repSeq + 1 ∧
    (∀ n : Fin 12, both.getLsbD n = true → (∀ i : Fin 12, i < n → both.getLsbD i = false) →
      r.extractLsb' 12 4 = BitVec.ofNat 4 n) ∧
    ((∀ n : Fin 12, both.getLsbD n = false) → r.extractLsb' 12 4 = 15)) ∧
  (∀ (w : State) (p : Port) (n : Nat), (pendingSet w p).getLsbD n = true ↔ (w.attention.get p).latched.getLsbD n = true ∨
    (n = 0 ∧ w.partState = .holdover) ∨
    (n = 4 ∧ ∃ k c, w.channel? k = some c ∧ c.halted = true ∧ c.desc.producer = p) ∨
    (n = 5 ∧ ∃ k c, w.channel? k = some c ∧ c.cond = .stale ∧ c.desc.producer = p.other) ∨
    (n = 11 ∧ (w.journals.get p).h ≠ (w.journals.get p).rd)) ∧
  (∀ (w : State) (p : Port), ∃ h : Word, itemContent w (.head p) = [h] ∧
    h.extractLsb' 0 7 = (w.journals.get p).c ∧ h.extractLsb' 7 9 = 0 ∧ h.extractLsb' 16 16 = (w.journals.get p).lost) ∧
  (∀ (w : State) (p : Port) (k : BitVec 7) (r : Record), (w.journals.get p).ring[k.toNat]? = some r →
    itemContent w (.slot p k) = [r.w0, r.w1, r.w2, r.w3]) ∧
  (∀ (w : State) (n : Nat) (c : Channel), w.channel? n = some c →
    ∃ s0 : Word, itemContent w (.chanBlock n) = [s0, c.pubCount, c.lastPub, c.sig.setWidth 32] ∧
      let code : Option Nat → BitVec 3 := fun b =>
        match b with
        | some i => BitVec.ofNat 3 i
        | none => 7
      s0.extractLsb' 0 8 = 0 ∧ s0.extractLsb' 8 3 = code c.live ∧ s0.extractLsb' 12 3 = code c.pendBuf ∧
      s0.extractLsb' 16 3 = (if c.pass.isSome && c.filling.isNone then 6 else code c.filling) ∧
      s0.extractLsb' 20 3 = code c.held ∧
      s0.extractLsb' 24 2 = (match c.cond with
        | .empty => 0
        | .fresh => 1
        | .stale => 2) ∧
      s0.getLsbD 26 = c.halted ∧
      s0.getLsbD 11 = false ∧ s0.getLsbD 15 = false ∧ s0.getLsbD 19 = false ∧ s0.getLsbD 23 = false ∧
      s0.extractLsb' 27 5 = 0) ∧
  (∀ (w : State) (n : Nat) (g : Group), w.group? n = some g →
    ∃ g0 g1 : Word, itemContent w (.groupBlock n) = [g0, g1] ∧
      g0.extractLsb' 0 8 = 0 ∧ g0.getLsbD 8 = g.pin.isSome ∧ (∀ q, g.pin = some q → g0.getLsbD 9 = q.tainted) ∧
      (g.pin = none → g0.getLsbD 9 = false) ∧ (g.desc.mode ≠ some .gathered → g0.getLsbD 10 = false) ∧
      g0.extractLsb' 11 21 = 0 ∧
      (g.desc.mode = some .immediate → g1 = (match g.pin with
        | some q => q.openTime
        | none => 0)) ∧
      (g.desc.mode = some .timed → g.nextFrame = some g1 ∨ g.nextFrame = none) ∧
      (g.desc.mode = some .gathered → g0.getLsbD 10 = g.gather.isSome ∧ g1 = (match g.gather with
        | some q => q.start
        | none => 0)))

/-! ### Port accesses (R72 to R95) -/

/-- R77, R78, R80: every control-area word may be read by both ports; a user word may be written by both, a table word by
the configuring port, a trigger word by its named port, with fewer than four lanes without being taken as a trigger. The
access is taken, waits for its cycle at the same physical address, and changes nothing else. The class of a word is fixed by
its address, and a word of no other class is a user word. -/
def Obligations.ControlWordsAreReachedByTheirClass : Prop :=
  (∀ n : Nat, n ≤ 0xFFF →
    (wordClass n = .partOwned ↔ n ≤ 0x004 ∨ n = 0x020 ∨ n = 0x021 ∨ n = 0x028 ∨ n = 0x029 ∨ (0x200 ≤ n ∧ n ≤ 0x28F) ∨
      (0x400 ≤ n ∧ n ≤ 0x7FF)) ∧
    (wordClass n = .table ↔ n = 0x010 ∨ (0x040 ≤ n ∧ n ≤ 0x19F)) ∧
    (∀ t, wordClass n = .trigger t ↔ n = (match t with
      | .commit => 0x008
      | .enable .A => 0x022
      | .ack .A => 0x023
      | .jread .A => 0x024
      | .rearm .A => 0x025
      | .enable .B => 0x02A
      | .ack .B => 0x02B
      | .jread .B => 0x02C
      | .rearm .B => 0x02D))) ∧
  (∀ (t : Trigger) (configPort : Port), t.owner configPort = (match t with
    | .commit => configPort
    | .enable p => p
    | .ack p => p
    | .jread p => p
    | .rearm p => p)) ∧
  ∀ (s : State) (p : Port) (d : Drive),
    let u := settle s
    Takes u p → d.addr.toNat ≤ 0xFFF →
    (d.wr = false ∨ wordClass d.addr.toNat = .user ∨ (wordClass d.addr.toNat = .table ∧ p = u.configPort) ∨
      (∃ t, wordClass d.addr.toNat = .trigger t ∧ p = t.owner u.configPort ∧ d.lanes ≠ 0xF)) →
    exec (.portAccessTake p d) s =
      .next (grant (u.taking p d (.control (wordClass d.addr.toNat) false (d.addr.setWidth 17)) false))

/-- R72, R75, R83, R84, R86: outside the control area, an access in the identity window below the fitted size goes to the
address of the same number, one at or above it is absent; an allowed access in a PLAIN window goes to the physical base plus
(logical address - logical base), one in no window of an installed map is unmapped. Absent and unmapped accesses do not wait
at the arbiter. Nothing else changes. An address lies in the window of an installed channel or region that holds it, in a
channel's at its offset from the logical base; rights READ allow reads, READ-WRITE both, NONE neither. -/
def Obligations.AddressesOutsideTheControlAreaLandByTheMap : Prop :=
  (∀ (s : State) (a : Nat),
    (∀ n, s.channelAt a = some n → ∃ c, s.channel? n = some c ∧ c.desc.lbase ≤ a ∧ a < c.desc.lbase + c.desc.len) ∧
    (s.channelAt a = none → ∀ n c, s.channel? n = some c → ¬ (c.desc.lbase ≤ a ∧ a < c.desc.lbase + c.desc.len)) ∧
    (∀ r, s.regionAt a = some r → ∃ g, s.region? r = some g ∧ g.lbase.toNat ≤ a ∧ a < g.lbase.toNat + g.len.toNat) ∧
    (s.regionAt a = none → ∀ r g, s.region? r = some g → ¬ (g.lbase.toNat ≤ a ∧ a < g.lbase.toNat + g.len.toNat))) ∧
  (∀ (s : State) (a : LogAddr) (n off : Nat), landing s a = .channel n off ↔ 0xFFF < a.toNat ∧ s.mapState = .installed ∧
    s.channelAt a.toNat = some n ∧ ∃ c, s.channel? n = some c ∧ off = a.toNat - c.desc.lbase) ∧
  (∀ (r : Rights) (wr : Bool), r.allow wr = true ↔ r = .readWrite ∨ (r = .read ∧ wr = false)) ∧
  ∀ (s : State) (p : Port) (d : Drive),
    let u := settle s
    Takes u p → 0xFFF < d.addr.toNat →
    (u.mapState = .unconfigured → d.addr.toNat < fittedWords u.msz →
      exec (.portAccessTake p d) s = .next (grant (u.taking p d (.identity (d.addr.setWidth 17)) false))) ∧
    (u.mapState = .unconfigured → fittedWords u.msz ≤ d.addr.toNat →
      exec (.portAccessTake p d) s = .next (grant (u.taking p d .absent false))) ∧
    (∀ r g, u.mapState = .installed → u.channelAt d.addr.toNat = none → u.regionAt d.addr.toNat = some r →
      u.region? r = some g → (g.rights p).allow d.wr = true →
      exec (.portAccessTake p d) s =
        .next (grant (u.taking p d (.plain r (g.pbase + (d.addr - g.lbase).setWidth 17)) false))) ∧
    (u.mapState = .installed → u.channelAt d.addr.toNat = none → u.regionAt d.addr.toNat = none →
      exec (.portAccessTake p d) s = .next (grant (u.taking p d .unmapped false))) ∧
    (∀ e, portWaits (u.taking p d .absent e) p = false ∧ portWaits (u.taking p d .unmapped e) p = false)

/-- R87, R88, R89: a refused access, of any of the five kinds, offers a VIOLATION record to the journal of its port, raises
VIOLATION for it, keeps ERR by the port's fault-signal setting, needs no cycle, and changes nothing else. The record has no
buffer index; its flags are the violation kind, the access kind and a write's lane mask, its argument the logical address and
the region index, which is 0 where no region is named, its time A the clock, and every other bit 0 (R180). -/
def Obligations.ARefusedAccessIsAViolation : Prop :=
  (∀ (k : ViolationKind) (subject : Nat) (region : Option Nat) (d : Drive) (now : Word), ∃ (flags : BitVec 12) (arg : Word),
    violationRecord k subject region d now = mkRecord .violation subject none flags arg now 0 ∧
    flags.extractLsb' 0 3 = (match k with
      | .rights => 0b001#3
      | .consumerWrite => 0b010#3
      | .owned => 0b011#3
      | .table => 0b100#3
      | .foreignTrigger => 0b101#3) ∧
    flags.getLsbD 3 = d.wr ∧ flags.extractLsb' 4 4 = (if d.wr then d.lanes else 0) ∧ flags.extractLsb' 8 4 = 0 ∧
    arg.extractLsb' 0 16 = d.addr ∧ (∀ i, region = some i → i < 16 → (arg.extractLsb' 16 4).toNat = i) ∧
    (region = none → arg.extractLsb' 16 4 = 0) ∧ arg.extractLsb' 20 12 = 0) ∧
  ∀ (s : State) (p : Port) (d : Drive) (k : ViolationKind) (subject : Nat) (region : Option Nat),
    let u := settle s
    let rs := [violationRecord k subject region d u.clock]
    Takes u p → Refuses u p d k subject region →
    ∃ w, exec (.portAccessTake p d) s = .next (grant w) ∧
      w = { u.taking p d (.violation k region) (u.ports.get p).faultSignal with
        journals := u.journals.set p (offers u.clock (u.journals.get p) rs)
        attention := u.attention.modify p fun a => a.told Cause.violation.bit u.clock (u.journals.get p) rs
        mirror := w.mirror } ∧
      portWaits w p = false ∧
      Marks u w (offersMark u.clock p (u.journals.get p) rs ++ changedReports u w)

/-- R95: while the Loader is DRAINING, an access that arrives at an IDLE port is held: it is captured, nothing is decoded,
nothing else changes. R92, R94, R168: while RST_N is low, and while REQ is already high, nothing arrives: only what the
processor drives changes. -/
def Obligations.AnArrivalIsHeldInADrainAndIgnoredInReset : Prop :=
  ∀ (s : State) (i : Instr) (p : Port) (d : Drive),
    let u := settle s
    accessOf i = some (p, d) →
    (u.pins.rstN = true → (u.ports.get p).req = false → u.access p = .idle → u.draining = true →
      exec i s = .next (grant ((drivePort p d u).setAccess p (.deferred d)))) ∧
    (u.pins.rstN = false ∨ (u.ports.get p).req = true → exec i s = .next (grant (drivePort p d u)))

/-- R93, R94: when REQ falls, a DONE port goes to IDLE, a held access is withdrawn, an access in flight goes on and is noted
as withdrawn; nothing else changes. -/
def Obligations.AFallOfReqReleasesThePort : Prop :=
  ∀ (s : State) (p : Port),
    let u := settle s
    (u.ports.get p).req = true →
    exec (.reqFall p) s = .next (grant { u with
      ports := u.ports.modify p fun q => { q with
        req := false
        access := match u.access p with
          | .taken t => .taken { t with withdrawn := true }
          | .inCycle t => .inCycle { t with withdrawn := true }
          | _ => .idle } })

/-! ### Producer and consumer accesses of a channel window (R5 to R9, R17, R44 to R47) -/

/-- R5: the target of a pass is the lowest-index buffer whose role is FREE, and SHED exactly when no buffer is FREE. R4: the
target of the open pass is FILLING, the pending buffer PENDING, the live buffer LIVE, the held buffer HELD where it is not the
live one (under the law that keeps these apart, `Channel.roleLaw`); a buffer is FREE exactly where it is none of them. -/
def Obligations.TheTargetIsTheLowestFreeBuffer : Prop :=
  ∀ c : Channel,
    (∀ b, c.role b = .free ↔ c.filling ≠ some b ∧ c.pendBuf ≠ some b ∧ c.live ≠ some b ∧ c.held ≠ some b) ∧
    (c.roleLaw → ∀ b, (c.role b = .filling ↔ c.filling = some b) ∧ (c.role b = .pending ↔ c.pendBuf = some b) ∧
      (c.role b = .live ↔ c.live = some b) ∧ (c.role b = .held ↔ c.held = some b ∧ c.live ≠ some b)) ∧
    (∀ b, c.chooseTarget = .buffer b ↔
      b < c.desc.depth ∧ c.role b = .free ∧ ∀ k, k < b → c.role k ≠ .free) ∧
    (c.chooseTarget = .shed ↔ ∀ b, b < c.desc.depth → c.role b ≠ .free)

/-- R6, R7, R9: a producer write taken in RUNNING, in a channel that is not halted and has no pass open, opens a pass and is
its first write: sequence number, open time, target and fill deadline are set, the write is steered to the target, a closing
write leaves no deadline, and the status block is marked. -/
def Obligations.AProducerWriteOpensAPass : Prop :=
  ∀ (s : State) (p : Port) (a : LogAddr) (l : Lanes) (v : Word) (n off : Nat) (c : Channel),
    let u := settle s
    let closing := off + 1 == c.desc.len
    Takes u p → landing u a = .channel n off → u.channel? n = some c → c.desc.producer = p →
    u.partState = .running → c.halted = false → c.pass = none →
    ∃ w, exec (.producerWrite p a l v) s = .next (grant w) ∧
      w.channel? n = some { c with
        fillSeq := c.fillSeq + 1
        pass := some
          { target := c.chooseTarget
            seq := c.fillSeq + 1
            openTime := u.clock
            deadline := if closing then none else formDeadline u.clock c.desc.fillLimit } } ∧
      (∀ m, m ≠ n → w.channel? m = u.channel? m) ∧
      w = { u.taking p (Drive.write a l v) (.channel
            { ch := n
              side := .producer
              steer := match c.chooseTarget with
                | .buffer b => .buffer b (c.desc.base b + BitVec.ofNat 17 off)
                | .shed => .nowhere
              passSeq := some (c.fillSeq + 1)
              closing := closing }) false with
        channels := w.channels
        mirror := w.mirror } ∧
      Marks u w [.chanBlock n]

/-- R7, R8, R9: a producer write taken while a pass is open belongs to it: it goes to the target, or is dropped if the pass
is SHED; a closing write cancels the fill deadline. A producer write to a halted channel, or in HOLDOVER, is dropped: it opens
no pass and belongs to none. Nothing else changes. -/
def Obligations.AProducerWriteJoinsTheOpenPassOrIsDropped : Prop :=
  ∀ (s : State) (p : Port) (a : LogAddr) (l : Lanes) (v : Word) (n off : Nat) (c : Channel),
    let u := settle s
    let closing := off + 1 == c.desc.len
    Takes u p → landing u a = .channel n off → u.channel? n = some c → c.desc.producer = p →
    (∀ q, u.partState = .running → c.halted = false → c.pass = some q →
      ∃ w, exec (.producerWrite p a l v) s = .next (grant w) ∧
        w.channel? n = some { c with pass := some { q with deadline := if closing then none else q.deadline } } ∧
        (∀ m, m ≠ n → w.channel? m = u.channel? m) ∧
        w = { u.taking p (Drive.write a l v) (.channel
              { ch := n
                side := .producer
                steer := match q.target with
                  | .buffer b => .buffer b (c.desc.base b + BitVec.ofNat 17 off)
                  | .shed => .nowhere
                passSeq := some q.seq
                closing := closing }) false with
          channels := w.channels }) ∧
    (c.halted = true ∨ u.partState = .holdover →
      exec (.producerWrite p a l v) s = .next (grant (u.taking p (Drive.write a l v) (.channel
        { ch := n, side := .producer, steer := .nowhere, passSeq := none, closing := closing }) false)))

/-- R17: a producer read is served from the target of an open non-shed pass, else (no pass, a SHED pass, halted, or HOLDOVER)
from the live buffer, else as zero; it changes nothing else. -/
def Obligations.AProducerReadIsServedFromTargetOrLive : Prop :=
  ∀ (s : State) (p : Port) (a : LogAddr) (n off : Nat) (c : Channel),
    let u := settle s
    let served : Option Nat :=
      if u.partState = .holdover ∨ c.halted = true then c.live
      else
        match c.filling with
        | some b => some b
        | none => c.live
    Takes u p → landing u a = .channel n off → u.channel? n = some c → c.desc.producer = p →
    exec (.producerRead p a) s = .next (grant (u.taking p (Drive.read a) (.channel
      { ch := n
        side := .producer
        steer := match served with
          | some b => .buffer b (c.desc.base b + BitVec.ofNat 17 off)
          | none => .nowhere
        passSeq := none
        closing := false }) false))

/-- R44, R46, R47: a consumer read taken while the group has no pin opens one: each member's held buffer becomes its live
buffer and its blank flag is set where it is STALE under BLANK; the read is steered by the record as it then stands; a read
of the closing word of the closing member leaves the pin without a hold deadline. -/
def Obligations.AConsumerReadOpensAPin : Prop :=
  ∀ (s : State) (p : Port) (a : LogAddr) (n off : Nat) (c : Channel) (gr : Group),
    let u := settle s
    let g := c.desc.group
    let closing := u.isClosingMember g n && off + 1 == c.desc.len
    Takes u p → landing u a = .channel n off → u.channel? n = some c → c.desc.producer = p.other →
    u.group? g = some gr → gr.pin = none →
    ∃ w cw, exec (.consumerRead p a) s = .next (grant w) ∧
      w.group? g = some { gr with
        pin := some
          { openTime := u.clock
            deadline := if closing then none else formDeadline u.clock gr.desc.holdLimit
            tainted := false } } ∧
      (∀ h, h ≠ g → w.group? h = u.group? h) ∧
      (∀ m, w.channel? m =
        if m ∈ u.members g then
          (u.channel? m).map fun k => { k with held := k.live, blank := k.cond == .stale && k.desc.blankPolicy }
        else u.channel? m) ∧
      w.channel? n = some cw ∧
      w = { u.taking p (Drive.read a) (.channel
            { ch := n
              side := .consumer
              steer := if cw.blank then .nowhere
                else match cw.held with
                  | some b => .buffer b (c.desc.base b + BitVec.ofNat 17 off)
                  | none => .nowhere
              passSeq := none
              closing := closing }) false with
        channels := w.channels
        groups := w.groups
        mirror := w.mirror } ∧
      Marks u w (.groupBlock g ::
        ((u.members g).filter fun m =>
          match u.channel? m with
          | some k => k.held != k.live
          | none => false).map .chanBlock)

/-- R46, R47: a consumer read taken while the pin is open is served from the member's held buffer, or as zero where there is
none or the member is blank; a read of the closing word of the closing member cancels the hold deadline; nothing else
changes. -/
def Obligations.AConsumerReadUnderAPinReadsTheHeldBuffer : Prop :=
  ∀ (s : State) (p : Port) (a : LogAddr) (n off : Nat) (c : Channel) (gr : Group) (pin : Pin),
    let u := settle s
    let g := c.desc.group
    let closing := u.isClosingMember g n && off + 1 == c.desc.len
    Takes u p → landing u a = .channel n off → u.channel? n = some c → c.desc.producer = p.other →
    u.group? g = some gr → gr.pin = some pin →
    ∃ w, exec (.consumerRead p a) s = .next (grant w) ∧
      w.group? g = some { gr with pin := some { pin with deadline := if closing then none else pin.deadline } } ∧
      (∀ h, h ≠ g → w.group? h = u.group? h) ∧
      w = { u.taking p (Drive.read a) (.channel
            { ch := n
              side := .consumer
              steer := if c.blank then .nowhere
                else match c.held with
                  | some b => .buffer b (c.desc.base b + BitVec.ofNat 17 off)
                  | none => .nowhere
              passSeq := none
              closing := closing }) false with
        groups := w.groups }

/-! ### Trigger takes (R24, R80, R112, R145, R158, R160) -/

/-- R160: an ENABLE_x take replaces the enable set by bits 11:0 of the value, sets the line afresh from the reported set, and
marks the report word; nothing else changes. -/
def Obligations.AnEnableTakeReplacesTheEnableSet : Prop :=
  ∀ (s : State) (p : Port) (v : Word),
    let u := settle s
    let d := triggerDrive (.enable p) v
    Takes u p →
    ∃ w, exec (.enableTake p v) s = .next (grant w) ∧
      w = { u.taking p d (.control (.trigger (.enable p)) true (d.addr.setWidth 17)) false with
        attention := u.attention.modify p fun a =>
          { a with
            enable := v.extractLsb' 0 12
            line := decide (∃ n : Fin 12, a.reported.getLsbD n = true ∧ v.getLsbD n = true) }
        mirror := w.mirror } ∧
      Marks u w [.report p]

/-- R158: an ACK_x take clears the latched event causes that the value names, no level cause, and no other; the line stays,
and the report word is marked. R154: bit n of a cause set stands for cause n. -/
def Obligations.AnAckTakeClearsTheEventCausesItNames : Prop :=
  (∀ (c : Cause) (n : Nat), c.bit.getLsbD n = true ↔ n = (match c with
    | .holdover => 0
    | .parity => 1
    | .violation => 2
    | .fillFault => 3
    | .halted => 4
    | .stale => 5
    | .pinFault => 6
    | .commit => 7
    | .journalLost => 8
    | .indexFault => 9
    | .publish => 10
    | .journal => 11)) ∧
  ∀ (s : State) (p : Port) (v : Word),
    let u := settle s
    let d := triggerDrive (.ack p) v
    Takes u p →
    ∃ w, exec (.ackTake p v) s = .next (grant w) ∧
      (∀ n : Nat, n < 12 → (w.attention.get p).latched.getLsbD n =
        ((u.attention.get p).latched.getLsbD n && !(v.getLsbD n && [1, 2, 3, 6, 7, 8, 9, 10].contains n))) ∧
      levelSet w p = levelSet u p ∧
      w = { u.taking p d (.control (.trigger (.ack p)) true (d.addr.setWidth 17)) false with
        attention := u.attention.modify p fun a => { a with latched := (w.attention.get p).latched }
        mirror := w.mirror } ∧
      Marks u w [.report p]

/-- R145, R146: a JREAD_x take moves Rd to the index in bits 6:0 if the index lies in the span from Rd to H, and is refused
with INDEX_FAULT if it does not; the report word is marked in both cases; W, C, H and L stay. -/
def Obligations.AJreadTakeMovesRdWithinTheSpan : Prop :=
  ∀ (s : State) (p : Port) (v : Word),
    let u := settle s
    let d := triggerDrive (.jread p) v
    let j := u.journals.get p
    let n : BitVec 7 := v.extractLsb' 0 7
    Takes u p →
    ∃ w, exec (.jreadTake p v) s = .next (grant w) ∧
      ((n - j.rd).toNat ≤ (j.h - j.rd).toNat →
        w = { u.taking p d (.control (.trigger (.jread p)) true (d.addr.setWidth 17)) false with
          journals := u.journals.set p { j with rd := n }
          mirror := w.mirror }) ∧
      ((j.h - j.rd).toNat < (n - j.rd).toNat →
        w = { u.taking p d (.control (.trigger (.jread p)) true (d.addr.setWidth 17)) false with
          attention := u.attention.modify p fun a => { a with latched := a.latched ||| Cause.indexFault.bit }
          mirror := w.mirror }) ∧
      Marks u w [.report p]

/-- R24: a REARM_x take clears the halted field of each installed channel that port x produces and a set bit of 23:0 names;
each whose field changes has its status block marked, and the report words follow the level cause HALTED. -/
def Obligations.ARearmTakeClearsTheHaltsItNames : Prop :=
  ∀ (s : State) (p : Port) (v : Word),
    let u := settle s
    let d := triggerDrive (.rearm p) v
    let cleared : Nat → Bool := fun n =>
      match u.channel? n with
      | some c => v.getLsbD n && c.desc.producer == p && c.halted
      | none => false
    Takes u p →
    ∃ w, exec (.rearmTake p v) s = .next (grant w) ∧
      (∀ n, w.channel? n = (u.channel? n).map fun c => { c with halted := c.halted && !cleared n }) ∧
      w = { u.taking p d (.control (.trigger (.rearm p)) true (d.addr.setWidth 17)) false with
        channels := w.channels
        mirror := w.mirror } ∧
      Marks u w (((List.range 24).filter cleared).map .chanBlock ++ changedReports u w)

/-- R112: a commit request by the configuring port: ignored in HOLDOVER and for generation 0; with the Loader IDLE it starts
READING; while READING it becomes the remembered request; B1 is marked where something changed. -/
def Obligations.ACommitRequestStartsOrIsRemembered : Prop :=
  ∀ (s : State) (v : Word),
    let u := settle s
    let p := u.configPort
    let d := triggerDrive .commit v
    let x := u.taking p d (.control (.trigger .commit) true 0x008) false
    let gen : BitVec 16 := v.extractLsb' 0 16
    Takes u p →
    (u.partState = .holdover ∨ gen = 0 → exec (.commitRequest p v) s = .next (grant x)) ∧
    (u.partState ≠ .holdover → gen ≠ 0 → u.loader = .idle →
      ∃ w, exec (.commitRequest p v) s = .next (grant w) ∧
        w = { x with
          loader := .reading { gen := gen, start := u.clock, words := [], firstFail := none, cands := [], resume := [] }
          mirror := w.mirror } ∧
        Marks u w [.part 1]) ∧
    (∀ l, u.partState ≠ .holdover → gen ≠ 0 → u.loader = .reading l →
      ∃ w, exec (.commitRequest p v) s = .next (grant w) ∧
        w = { x with remembered := some gen, mirror := w.mirror } ∧ Marks u w [.part 1])

/-! ### Completions (R10 to R13, R48, R49, R93, R97, R103) -/

/-- R93, R94, R10: an access that needs no cycle and whose completion closes nothing (it is to no closing word, or its pass is
no longer open, or it was dropped without one) completes: the port goes to DONE, a read with zero, with the ERR of its decode
result; or to IDLE if REQ has fallen; nothing else changes. If REQ has risen again by then, the port takes an arrival at once,
with its inputs as then driven (notes/assumptions/17.md). -/
def Obligations.AnAccessWithoutACycleCompletes : Prop :=
  ∀ (s : State) (p : Port) (t : Taken),
    let u := settle s
    u.access p = .taken t → t.outcome.phys? = none → ClosesNothing u t →
    (NoNewArrival u p t → exec (.cyclelessCompletion p) s = .next (grant (u.setAccess p (t.ended 0 t.err)))) ∧
    (t.withdrawn = true → (u.ports.get p).req = true →
      exec (.cyclelessCompletion p) s =
        .next (grant (noteReports u (arrive p (u.ports.get p).inputs (u.setAccess p .idle)))))

/-- R13, R22, R28: the completion of the closing write of a SHED pass closes the pass: a SHED record and FILL_FAULT to the
producer, and under STOP_ON_ERROR the halt with its HALTED record; no buffer changes role. -/
def Obligations.AShedPassClosesWithFillFault : Prop :=
  ∀ (s : State) (p : Port) (t : Taken) (a : ChannelAccess) (c : Channel) (q : FillPass),
    let u := settle s
    let x := c.desc.producer
    let j := u.journals.get x
    let rs := mkRecord .shed a.ch none 0 q.seq q.openTime u.clock ::
      (if c.desc.stopOnError then [mkRecord .halted a.ch none (flagBit 0 true) q.seq q.openTime u.clock] else [])
    u.access p = .taken t → NoNewArrival u p t → t.drive.wr = true → t.outcome = .channel a → a.side = .producer →
    a.steer = .nowhere → a.closing = true → a.passSeq = some q.seq → u.channel? a.ch = some c → c.pass = some q →
    q.target = .shed →
    ∃ w, exec (.cyclelessCompletion p) s = .next (grant w) ∧
      w.channel? a.ch = some { c with pass := none, halted := c.halted || c.desc.stopOnError } ∧
      (∀ m, m ≠ a.ch → w.channel? m = u.channel? m) ∧
      w = { u.setAccess p (t.ended 0 t.err) with
        channels := w.channels
        journals := u.journals.set x (offers u.clock j rs)
        attention := u.attention.modify x fun b => b.told Cause.fillFault.bit u.clock j rs
        mirror := w.mirror } ∧
      Marks u w (.chanBlock a.ch :: offersMark u.clock x j rs ++ changedReports u w)

/-- R48, R47, R49, R54: the completion of a closing read closes the pin, whether the read was served as zero or from memory:
every member's held buffer becomes none, the pin field absent; the blank flags stay. A read in error offers its PARITY record
first and taints the pin. A tainted pin closes with a PIN_TAINTED record, which carries the mask of the held buffers that were
not live, and PIN_FAULT; an untainted one with no record. The reader is the group's consumer (R1, R30). -/
def Obligations.AClosingReadClosesThePin : Prop :=
  ∀ (s : State) (p : Port) (t : Taken) (a : ChannelAccess) (c : Channel) (gr : Group) (pin : Pin),
    let u := settle s
    let g := c.desc.group
    let mask := channelMask ((u.members g).filter fun m =>
      match u.channel? m with
      | some k => k.held.isSome && k.held != k.live
      | none => false)
    let taintedRecord : Bool → List Record := fun tainted =>
      if tainted then [mkRecord .pinTainted g none 0 mask pin.openTime u.clock] else []
    NoNewArrival u p t → t.drive.wr = false → t.outcome = .channel a → a.side = .consumer → a.closing = true →
    u.channel? a.ch = some c → u.group? g = some gr → gr.pin = some pin → u.groupConsumer g = p →
    (u.access p = .taken t → a.steer = .nowhere →
      ∃ w, exec (.cyclelessCompletion p) s = .next (grant w) ∧
        PinClosed u (u.setAccess p (t.ended 0 t.err)) w g gr p (taintedRecord pin.tainted)
          (causeIf .pinFault pin.tainted)) ∧
    (∀ (cy : MCycle) (b : Nat) (phys : PhysAddr), u.cycle = some cy → cy.use = .port p → cy.wr = false →
      u.access p = .inCycle t → a.steer = .buffer b phys →
      let errs := u.mem.errors cy.addr
      let bad : Bool := errs != 0
      ∃ w, exec .memoryCycleEnd s = .next (grant w) ∧
        PinClosed u
          ({ u with cycle := none }.setAccess p
            (t.ended (u.mem.word cy.addr) (t.err || (bad && (u.ports.get p).faultSignal)))) w g gr p
          ((if bad then [parityRecord (some (a.ch, b, .consumer)) errs phys t.drive.addr u.clock] else []) ++
            taintedRecord (pin.tainted || bad))
          (causeIf .parity bad ||| causeIf .pinFault (pin.tainted || bad)))

/-- R97, R93, R94, R10: the end of a port's cycle frees the M port and the port goes to DONE with the ERR of its decode
result, or to IDLE if REQ has fallen: a write has landed in its lanes; a read whose lanes all pass the check returns the word
as memory holds it. An access that closes nothing (to no closing word, or of a pass no longer open) changes nothing else. If
REQ has risen again by then, the port takes an arrival at once, with its inputs as then driven (notes/assumptions/17.md). -/
def Obligations.APortCycleCompletesItsAccess : Prop :=
  ∀ (s : State) (p : Port) (t : Taken) (c : MCycle),
    let u := settle s
    let x := if c.wr then { u with cycle := none, mem := u.mem.write c.addr c.lanes c.data } else { u with cycle := none }
    u.cycle = some c → c.use = .port p → u.access p = .inCycle t → t.drive.wr = c.wr → ClosesNothing u t →
    (c.wr = false → u.mem.errors c.addr = 0) →
    (NoNewArrival u p t → exec .memoryCycleEnd s = .next (grant
      (x.setAccess p (t.ended (if c.wr then 0 else u.mem.word c.addr) t.err)))) ∧
    (t.withdrawn = true → (u.ports.get p).req = true → exec .memoryCycleEnd s = .next (grant
      (noteReports u (arrive p (u.ports.get p).inputs (x.setAccess p .idle)))))

/-- R103, R104, R49: a port read with a lane in error that closes no pin completes with the word as read, offers a PARITY
record to the reading port's journal, raises PARITY for it, drives ERR where its fault-signal setting is on, and taints the
open pin of a consumer read; nothing else changes. The record's flags are the lanes in error and, for a read in a channel
window, CHANNEL and the side; only such a read has a subject and a buffer index. Its argument is the physical address, its
time A the clock, its time B the logical address, and every other bit 0 (R180). -/
def Obligations.AReadInErrorIsReportedToItsReader : Prop :=
  (∀ (chan : Option (Nat × Nat × Side)) (errs : Lanes) (phys : PhysAddr) (addr : LogAddr) (now : Word),
    ∃ (flags : BitVec 12) (arg timeB : Word),
      parityRecord chan errs phys addr now = (match chan with
        | some (n, b, _) => mkRecord .parity n (some b) flags arg now timeB
        | none => mkRecord .parity 0 none flags arg now timeB) ∧
      flags.extractLsb' 0 4 = errs ∧ flags.getLsbD 4 = chan.isSome ∧
      flags.getLsbD 5 = (match chan with
        | some (_, _, side) => side == .consumer
        | none => false) ∧
      flags.extractLsb' 6 6 = 0 ∧ arg.extractLsb' 0 17 = phys ∧ arg.extractLsb' 17 15 = 0 ∧
      timeB.extractLsb' 0 16 = addr ∧ timeB.extractLsb' 16 16 = 0) ∧
  (∀ o : Decoded, o.bufferRead? = (match o with
    | .channel a =>
      match a.steer with
      | .buffer b _ => some (a.ch, b, a.side)
      | .nowhere => none
    | _ => none)) ∧
  ∀ (s : State) (p : Port) (t : Taken) (c : MCycle) (phys : PhysAddr),
    let u := settle s
    let errs := u.mem.errors c.addr
    let j := u.journals.get p
    let rs := [parityRecord t.outcome.bufferRead? errs phys t.drive.addr u.clock]
    let consumed : Nat → Bool := fun g =>
      match t.outcome with
      | .channel a => a.side == .consumer && (u.channel? a.ch).map (·.desc.group) == some g
      | _ => false
    let untainted : Nat → Bool := fun g =>
      match (u.group? g).bind (·.pin) with
      | some q => !q.tainted
      | none => false
    u.cycle = some c → c.use = .port p → c.wr = false → u.access p = .inCycle t → t.drive.wr = false →
    NoNewArrival u p t → t.outcome.phys? = some phys → ClosesNothing u t → errs ≠ 0 →
    ∃ w, exec .memoryCycleEnd s = .next (grant w) ∧
      (∀ g, w.group? g = (u.group? g).map fun gr =>
        if consumed g then { gr with pin := gr.pin.map fun q => { q with tainted := true } } else gr) ∧
      w = { u.setAccess p (t.ended (u.mem.word c.addr) (t.err || (u.ports.get p).faultSignal)) with
        cycle := none
        groups := w.groups
        journals := u.journals.set p (offers u.clock j rs)
        attention := u.attention.modify p fun b => b.told Cause.parity.bit u.clock j rs
        mirror := w.mirror } ∧
      Marks u w (offersMark u.clock p j rs ++
        ((List.range 24).filter fun g => consumed g && untainted g).map .groupBlock ++ changedReports u w)

/-- R10, R11, R19, R20: the completion of the closing write of an open non-shed pass in an IMMEDIATE group publishes its
buffer: it becomes live, the publish count and time advance, the condition becomes FRESH, the freshness deadline restarts;
under NOTIFY a PUBLISHED record and PUBLISH go to the consumer; the held buffer and the blank flag stay. -/
def Obligations.AClosingWriteInAnImmediateGroupPublishes : Prop :=
  ∀ (s : State) (p : Port) (t : Taken) (cy : MCycle) (a : ChannelAccess) (c : Channel) (q : FillPass) (b : Nat),
    let u := settle s
    let x := c.desc.consumer
    let j := u.journals.get x
    let rs := if c.desc.notify then [mkRecord .published a.ch (some b) 0 q.seq u.clock u.clock] else []
    u.cycle = some cy → cy.use = .port p → cy.wr = true → u.access p = .inCycle t → t.drive.wr = true →
    NoNewArrival u p t → t.outcome = .channel a → a.side = .producer → a.closing = true → a.passSeq = some q.seq →
    u.channel? a.ch = some c → c.pass = some q → q.target = .buffer b → u.modeOfChannel c = some .immediate →
    c.pend = none →
    ∃ w, exec .memoryCycleEnd s = .next (grant w) ∧
      w.channel? a.ch = some { c with
        pass := none
        live := some b
        pubCount := c.pubCount + 1
        lastPub := u.clock
        cond := .fresh
        freshDl := formDeadline u.clock c.desc.freshLimit } ∧
      (∀ m, m ≠ a.ch → w.channel? m = u.channel? m) ∧
      w = { u.setAccess p (t.ended 0 t.err) with
        cycle := none
        mem := u.mem.write cy.addr cy.lanes cy.data
        channels := w.channels
        journals := u.journals.set x (offers u.clock j rs)
        attention := u.attention.modify x fun b =>
          b.told (causeIf .publish c.desc.notify) u.clock j rs
        mirror := w.mirror } ∧
      Marks u w (.chanBlock a.ch :: offersMark u.clock x j rs ++ changedReports u w)

/-- R11, R12, R35: the completion of the closing write of an open non-shed pass in a TIMED group makes its buffer pending;
an earlier pending buffer is superseded with its record to the producer; the group does nothing at once. -/
def Obligations.AClosingWriteInATimedGroupPends : Prop :=
  ∀ (s : State) (p : Port) (t : Taken) (cy : MCycle) (a : ChannelAccess) (c : Channel) (q : FillPass) (b : Nat),
    let u := settle s
    let x := c.desc.producer
    let j := u.journals.get x
    let rs := match c.pend with
      | some o => [mkRecord .superseded a.ch (some o.buf) 0 o.seq o.closeTime u.clock]
      | none => []
    u.cycle = some cy → cy.use = .port p → cy.wr = true → u.access p = .inCycle t → t.drive.wr = true →
    NoNewArrival u p t → t.outcome = .channel a → a.side = .producer → a.closing = true → a.passSeq = some q.seq →
    u.channel? a.ch = some c → c.pass = some q → q.target = .buffer b → u.modeOfChannel c = some .timed →
    ∃ w, exec .memoryCycleEnd s = .next (grant w) ∧
      w.channel? a.ch = some { c with
        pass := none
        pend := some { buf := b, seq := q.seq, openTime := q.openTime, closeTime := u.clock } } ∧
      (∀ m, m ≠ a.ch → w.channel? m = u.channel? m) ∧
      w = { u.setAccess p (t.ended 0 t.err) with
        cycle := none
        mem := u.mem.write cy.addr cy.lanes cy.data
        channels := w.channels
        journals := u.journals.set x (offers u.clock j rs)
        attention := u.attention.modify x fun b => b.told 0 u.clock j rs
        mirror := w.mirror } ∧
      Marks u w (.chanBlock a.ch :: offersMark u.clock x j rs ++ changedReports u w)

/-- R39: the completion of a closing write in a GATHERED group that leaves another member without a pending buffer makes the
buffer pending, superseding an earlier one (R12), and starts a gather where none runs; a gather that runs keeps its start and
its deadline. -/
def Obligations.AClosingWriteInAGatheredGroupGathers : Prop :=
  ∀ (s : State) (p : Port) (t : Taken) (cy : MCycle) (a : ChannelAccess) (c : Channel) (q : FillPass) (b : Nat)
    (gr : Group),
    let u := settle s
    let g := c.desc.group
    let x := c.desc.producer
    let j := u.journals.get x
    let rs := match c.pend with
      | some o => [mkRecord .superseded a.ch (some o.buf) 0 o.seq o.closeTime u.clock]
      | none => []
    u.cycle = some cy → cy.use = .port p → cy.wr = true → u.access p = .inCycle t → t.drive.wr = true →
    NoNewArrival u p t → t.outcome = .channel a → a.side = .producer → a.closing = true → a.passSeq = some q.seq →
    u.channel? a.ch = some c → c.pass = some q → q.target = .buffer b → u.group? g = some gr →
    gr.desc.mode = some .gathered → (∃ m ∈ u.members g, m ≠ a.ch ∧ u.hasPending m = false) →
    ∃ w, exec .memoryCycleEnd s = .next (grant w) ∧
      w.channel? a.ch = some { c with
        pass := none
        pend := some { buf := b, seq := q.seq, openTime := q.openTime, closeTime := u.clock } } ∧
      (∀ m, m ≠ a.ch → w.channel? m = u.channel? m) ∧
      w.group? g = some { gr with
        gather := match gr.gather with
          | some r => some r
          | none => some { start := u.clock, deadline := formDeadline u.clock gr.desc.window } } ∧
      (∀ h, h ≠ g → w.group? h = u.group? h) ∧
      w = { u.setAccess p (t.ended 0 t.err) with
        cycle := none
        mem := u.mem.write cy.addr cy.lanes cy.data
        channels := w.channels
        groups := w.groups
        journals := u.journals.set x (offers u.clock j rs)
        attention := u.attention.modify x fun b => b.told 0 u.clock j rs
        mirror := w.mirror } ∧
      Marks u w (.chanBlock a.ch :: (if gr.gather.isNone then [.groupBlock g] else []) ++ offersMark u.clock x j rs ++
        changedReports u w)

/-- R40: the completion of a closing write in a GATHERED group after which every member has a pending buffer publishes all of
them and ends the gather; a superseded buffer's record goes to the producer, the PUBLISHED records to the consumer in chain
order, and no GROUP_PARTIAL record is made. -/
def Obligations.ACompleteGatherPublishesEveryMember : Prop :=
  ∀ (s : State) (p : Port) (t : Taken) (cy : MCycle) (a : ChannelAccess) (c : Channel) (q : FillPass) (b : Nat)
    (gr : Group),
    let u := settle s
    let g := c.desc.group
    let x := c.desc.producer
    let closed : Channel := { c with
      pass := none
      pend := some { buf := b, seq := q.seq, openTime := q.openTime, closeTime := u.clock } }
    let v := u.modChannel a.ch fun _ => closed
    let superseded := match c.pend with
      | some o => [mkRecord .superseded a.ch (some o.buf) 0 o.seq o.closeTime u.clock]
      | none => []
    ChainLaw u →
    u.cycle = some cy → cy.use = .port p → cy.wr = true → u.access p = .inCycle t → t.drive.wr = true →
    NoNewArrival u p t → t.outcome = .channel a → a.side = .producer → a.closing = true → a.passSeq = some q.seq →
    u.channel? a.ch = some c → c.pass = some q → q.target = .buffer b → u.group? g = some gr →
    gr.desc.mode = some .gathered → (∀ m ∈ u.members g, m = a.ch ∨ u.hasPending m = true) →
    ∃ w, exec .memoryCycleEnd s = .next (grant w) ∧
      (∀ m, w.channel? m =
        if m ∈ u.members g then (v.channel? m).map fun k => k.pendPublished u.clock else u.channel? m) ∧
      w.group? g = some { gr with gather := none } ∧ (∀ h, h ≠ g → w.group? h = u.group? h) ∧
      w.journals.get x = offers u.clock (u.journals.get x) superseded ∧
      w.journals.get x.other = offers u.clock (u.journals.get x.other) (groupRecords v g x.other) ∧
      w.attention.get x = (u.attention.get x).told 0 u.clock (u.journals.get x) superseded ∧
      w.attention.get x.other = (u.attention.get x.other).told (causeIf .publish (!(groupRecords v g x.other).isEmpty)) u.clock
        (u.journals.get x.other) (groupRecords v g x.other) ∧
      w = { u.setAccess p (t.ended 0 t.err) with
        cycle := none
        mem := u.mem.write cy.addr cy.lanes cy.data
        channels := w.channels
        groups := w.groups
        journals := w.journals
        attention := w.attention
        mirror := w.mirror } ∧
      Marks u w (.chanBlock a.ch :: .groupBlock g :: (u.members g).map .chanBlock ++
        offersMark u.clock x (u.journals.get x) superseded ++
        offersMark u.clock x.other (u.journals.get x.other) (groupRecords v g x.other) ++ changedReports u w)

/-- R143, R144, R163, R132: the end of the last cycle of the item in flight: a slot moves C on and marks the head word; a
head word gives H its captured index; a report word gives the reported set its captured pending set and sets the line; an
item marked changed is dirty again. The end of an earlier cycle of the item changes nothing but the M port and memory. The
update counts stay (R134: they advance at grants). -/
def Obligations.AMirrorItemCompletes : Prop :=
  ∀ (s : State) (c : MCycle) (f : Flight),
    let u := settle s
    u.cycle = some c → c.use = .mirror → c.wr = true → u.mirror.flight = some f →
    (f.granted < f.item.cycles → exec .memoryCycleEnd s =
      .next (grant { u with cycle := none, mem := u.mem.write c.addr c.lanes c.data })) ∧
    (f.item.cycles ≤ f.granted → ∃ w, exec .memoryCycleEnd s = .next (grant w) ∧
      w.mirror.flight = none ∧
      w = { u with
        cycle := none
        mem := u.mem.write c.addr c.lanes c.data
        journals := match f.item with
          | .slot p _ => u.journals.modify p fun j => { j with c := j.c + 1 }
          | .head p => u.journals.modify p fun j => { j with h := (f.content.getD 0 0).extractLsb' 0 7 }
          | _ => u.journals
        attention := match f.item with
          | .report p => u.attention.modify p fun a =>
            { a with
              reported := (f.content.getD 0 0).extractLsb' 0 12
              line := decide (∃ n : Fin 12, (f.content.getD 0 0).getLsbD n = true ∧ a.enable.getLsbD n = true) }
          | _ => u.attention
        mirror := w.mirror } ∧
      (∀ i, w.mirror.count i = u.mirror.count i) ∧
      MarkedAre u w ((match f.item with
        | .slot p _ => [.head p]
        | _ => []) ++ changedReports u w))

/-- R114, R106, R116, R121: a Loader read of a table word, not the last, that passes its check is kept in the load. A table
read with a lane in error ends the load with result PARITY and the table and address of the word as detail, with COMMIT
records and causes for both ports, and the Loader goes on with a remembered request (R113); the map and every runtime record
stay. The reads are 010h, then 040h to 07Fh, 080h to 13Fh and 140h to 19Fh in address order, and the words of entry n are those
read at its addresses (R110). The COMMIT record carries the result code, the generation, the detail, the start and the end of
the load, and every other bit 0 (R129, R180). -/
def Obligations.ATableReadIsKeptOrEndsTheLoad : Prop :=
  ((List.range 353).map tableAddr = [0x010] ++ (List.range 0x40).map (0x040 + ·) ++ (List.range 0xC0).map (0x080 + ·) ++
    (List.range 0x60).map (0x140 + ·)) ∧
  (∀ l : Load, l.words.length < 353 → l.nextRead = some (BitVec.ofNat 17 (tableAddr l.words.length))) ∧
  (∀ a : Nat, (a = 0x010 → tableOf a = .parameter) ∧ (0x040 ≤ a → a ≤ 0x07F → tableOf a = .region) ∧
    (0x080 ≤ a → a ≤ 0x13F → tableOf a = .channel) ∧ (0x140 ≤ a → a ≤ 0x19F → tableOf a = .group)) ∧
  (∀ l : Load,
    let readAt : Nat → Word → Prop := fun a w => ∀ k, k < 353 → tableAddr k = a → l.words.getD k 0 = w
    readAt 0x010 l.param ∧
    (∀ n, n < 16 → let e := l.region n
      readAt (0x040 + 4 * n) e.w0 ∧ readAt (0x041 + 4 * n) e.w1 ∧ readAt (0x042 + 4 * n) e.w2 ∧
        readAt (0x043 + 4 * n) e.w3) ∧
    (∀ n, n < 24 → let d := l.chan n
      readAt (0x080 + 8 * n) d.w0 ∧ readAt (0x081 + 8 * n) d.w1 ∧ readAt (0x082 + 8 * n) d.w2 ∧
        readAt (0x083 + 8 * n) d.w3 ∧ readAt (0x084 + 8 * n) d.w4 ∧ readAt (0x085 + 8 * n) d.w5 ∧
        readAt (0x086 + 8 * n) d.w6 ∧ readAt (0x087 + 8 * n) d.w7) ∧
    (∀ n, n < 24 → let d := l.group n
      readAt (0x140 + 4 * n) d.w0 ∧ readAt (0x141 + 4 * n) d.w1 ∧ readAt (0x142 + 4 * n) d.w2 ∧
        readAt (0x143 + 4 * n) d.w3)) ∧
  (∀ (r : LoadResult) (start now : Word), ∃ (flags : BitVec 12) (arg : Word),
    commitRecord r start now = mkRecord .commit 0 none flags arg start now ∧
    flags.extractLsb' 0 8 = (match r.code with
      | .ok => 0x00#8
      | .badParam => 0x01#8
      | .badRegion => 0x02#8
      | .badChannel => 0x03#8
      | .badGroup => 0x04#8
      | .logicalOverlap => 0x05#8
      | .physicalOverlap => 0x06#8
      | .beyondFitted => 0x07#8
      | .chainBroken => 0x08#8
      | .mixedProducer => 0x09#8
      | .parity => 0x0A#8
      | .abandoned => 0x0B#8) ∧
    flags.extractLsb' 8 4 = 0 ∧ arg.extractLsb' 0 16 = r.gen ∧ arg.extractLsb' 16 12 = r.detail.index ∧
    arg.extractLsb' 28 3 = (match r.detail.table with
      | .none => 0b000#3
      | .parameter => 0b001#3
      | .region => 0b010#3
      | .channel => 0b011#3
      | .group => 0b100#3) ∧
    arg.getLsbD 31 = false) ∧
  ∀ (s : State) (c : MCycle) (l : Load),
    let u := settle s
    let r : LoadResult :=
      { gen := l.gen
        code := .parity
        detail := { table := tableOf (tableAddr l.words.length), index := BitVec.ofNat 12 (tableAddr l.words.length) } }
    u.cycle = some c → c.use = .loader → c.wr = false → u.loader = .reading l → l.words.length < 353 →
    (l.words.length + 1 < 353 → u.mem.errors c.addr = 0 → exec .memoryCycleEnd s = .next (grant
      { u with cycle := none, loader := .reading { l with words := l.words ++ [u.mem.word c.addr] } })) ∧
    (u.mem.errors c.addr ≠ 0 → ∃ w, exec .memoryCycleEnd s = .next (grant w) ∧ LoadFailed u w r l.start)

/-- R115 to R117, R121, R122: the last table read picks the resume candidates: the valid channels with RESUME that are not
carried, in increasing order. Where there are some, each one's S0 and then its S3 is read and kept with its check, a failed
check ending nothing. The last read of the load ends the reading: the table set that passes validation makes the Loader
DRAINING; one that fails ends the load with the first failing check's code and detail in B2 and B3, with COMMIT records and
causes for both ports, and the Loader goes on with a remembered request (R113); the map and every runtime
record stay. R117 to R120: the first check, in the order of the steps, that refuses the table set gives the code and the
detail (`Load.refuses` says when each does), and a set that none refuses passes; the fields of the entries lie where 10.6 puts
them. -/
def Obligations.TheLastReadIsValidated : Prop :=
  (∀ (l : Load) (fitted : Nat), l.validate fitted = checksInOrder.findSome? (l.refuses fitted)) ∧
  (∀ r : RegionWords, r.valid = r.w0.getLsbD 0 ∧
    (∀ code rights, (code = r.w0.extractLsb' 4 2 ∧ rights = r.rightsA) ∨ (code = r.w0.extractLsb' 6 2 ∧ rights = r.rightsB) →
      (code = 0b00#2 → rights = some .none) ∧ (code = 0b01#2 → rights = some .read) ∧
      (code = 0b11#2 → rights = some .readWrite) ∧ (code = 0b10#2 → rights = none)) ∧
    r.lbase = r.w1.extractLsb' 0 16 ∧ r.len = r.w2.extractLsb' 0 16 ∧
    r.pbase = r.w3.extractLsb' 0 17) ∧
  (∀ d : ChanDesc, d.valid = d.w0.getLsbD 0 ∧ (d.producer = .B ↔ d.w0.getLsbD 1 = true) ∧
    d.depth = (d.w0.extractLsb' 2 3).toNat ∧ d.group = (d.w0.extractLsb' 8 5).toNat ∧
    d.nextMember = (d.w0.extractLsb' 16 5).toNat ∧ d.notify = d.w0.getLsbD 24 ∧
    d.stopOnError = d.w0.getLsbD 25 ∧ d.resume = d.w0.getLsbD 26 ∧ d.blankPolicy = d.w0.getLsbD 27 ∧
    d.fillLimit = d.w7.extractLsb' 0 16 ∧ d.freshLimit = d.w7.extractLsb' 16 16 ∧ d.consumer = d.producer.other ∧
    d.lbase = (d.w1.extractLsb' 0 16).toNat ∧ d.len = (d.w2.extractLsb' 0 13).toNat ∧
    d.base 0 = d.w3.extractLsb' 0 17 ∧ d.base 1 = d.w4.extractLsb' 0 17 ∧ d.base 2 = d.w5.extractLsb' 0 17 ∧
    d.base 3 = d.w6.extractLsb' 0 17) ∧
  (∀ d : GroupDesc, d.valid = d.w0.getLsbD 0 ∧ d.first = (d.w0.extractLsb' 8 5).toNat ∧ d.period = d.w1.extractLsb' 0 16 ∧
    d.window = d.w1.extractLsb' 0 16 ∧ d.phase = d.w2.extractLsb' 0 16 ∧ d.holdLimit = d.w3.extractLsb' 0 16 ∧
    let code := d.w0.extractLsb' 4 2
    (code = 0b01#2 → d.mode = some .immediate) ∧ (code = 0b10#2 → d.mode = some .timed) ∧
      (code = 0b11#2 → d.mode = some .gathered) ∧ (code = 0b00#2 → d.mode = none)) ∧
  ∀ (s : State) (c : MCycle) (l : Load),
    let u := settle s
    let word := u.mem.word c.addr
    let ends : Load → Prop := fun l' =>
      (l'.validate (fittedWords u.msz) = none → ∃ w, exec .memoryCycleEnd s = .next (grant w) ∧
        w = { u with cycle := none, loader := .draining l', mirror := w.mirror } ∧ Marks u w [.part 1]) ∧
      (∀ code detail, l'.validate (fittedWords u.msz) = some (code, detail) →
        ∃ w, exec .memoryCycleEnd s = .next (grant w) ∧ LoadFailed u w { gen := l.gen, code := code, detail := detail } l.start)
    let l1 : Load := { l with words := l.words ++ [word] }
    let picked := pickCandidates u l1
    let l2 : Load := { l with resume := l.resume ++ [(word, u.mem.errors c.addr == 0)] }
    u.cycle = some c → c.use = .loader → c.wr = false → u.loader = .reading l →
    (l.words.length + 1 = 353 → u.mem.errors c.addr = 0 →
      (picked = (List.range 24).filter fun n => (l1.chan n).valid && (l1.chan n).resume &&
        match u.channel? n with
        | some k => !(l1.chan n).sameBody k.desc
        | none => true) ∧
      (picked = [] → ends { l1 with cands := [] }) ∧
      (picked ≠ [] → exec .memoryCycleEnd s =
        .next (grant { u with cycle := none, loader := .reading { l1 with cands := picked } }))) ∧
    (353 ≤ l.words.length →
      (∀ n, l.cands[l2.resume.length / 2]? = some n → l2.nextRead =
        some (BitVec.ofNat 17 (if l2.resume.length % 2 = 0 then 0x200 + 4 * n else 0x203 + 4 * n))) ∧
      (l2.resume.length < 2 * l.cands.length →
        exec .memoryCycleEnd s = .next (grant { u with cycle := none, loader := .reading l2 })) ∧
      (2 * l.cands.length ≤ l2.resume.length → ends l2))

/-! ### Time (R14, R37, R41, R50, R55, R56, R68) -/

/-- R55, R56: at a rising edge of TCLK taken while RST_N is high the count increases; when it reaches the divisor it returns
to 0 and the clock advances by one modulo 2^32; edges while RST_N is low are not counted; nothing else changes. That TICK and
TCLK_EDGE are both such an edge, and the count alone decides whether it ticks, is the model's reading
(notes/assumptions/5.md). -/
def Obligations.AnEdgeOfTclkCountsAndTicks : Prop :=
  ∀ (s : State) (i : Instr),
    let u := settle s
    i = .tick ∨ i = .tclkEdge →
    (u.pins.rstN = true → u.prescaler + 1 < u.divisor →
      exec i s = .next (grant { u with prescaler := u.prescaler + 1 })) ∧
    (u.pins.rstN = true → u.divisor ≤ u.prescaler + 1 →
      exec i s = .next (grant { u with prescaler := 0, clock := u.clock + 1 })) ∧
    (u.pins.rstN = false → exec i s = .next (grant u))

/-- R14, R22, R28: a fill deadline reached aborts the pass: its target becomes FREE, FILL_EXPIRED and FILL_FAULT go to the
producer, and under STOP_ON_ERROR the halt with its HALTED record; the pending, live and held buffers stay. -/
def Obligations.AFillExpiryAbortsThePass : Prop :=
  ∀ (s : State) (n : Nat) (c : Channel) (q : FillPass) (dl : Deadline),
    let x := c.desc.producer
    let j := s.journals.get x
    let rs := mkRecord .fillExpired n q.target.buffer? (flagBit 0 (q.target == .shed)) q.seq q.openTime s.clock ::
      (if c.desc.stopOnError then [mkRecord .halted n none (flagBit 1 true) q.seq q.openTime s.clock] else [])
    s.channel? n = some c → c.pass = some q → q.deadline = some dl → s.clock - dl.start = dl.limit.setWidth 32 →
    ∃ w, exec (.fillExpiry n) s = .next (grant w) ∧
      w.channel? n = some { c with pass := none, halted := c.halted || c.desc.stopOnError } ∧
      (∀ m, m ≠ n → w.channel? m = s.channel? m) ∧
      w = { s with
        channels := w.channels
        journals := s.journals.set x (offers s.clock j rs)
        attention := s.attention.modify x fun b => b.told Cause.fillFault.bit s.clock j rs
        mirror := w.mirror } ∧
      Marks s w (.chanBlock n :: offersMark s.clock x j rs ++ changedReports s w)

/-- R68, R69: a freshness deadline reached, out of HOLDOVER, makes the channel STALE and its deadline absent, with a STALE
record to the consumer; nothing else of the record changes. -/
def Obligations.AFreshnessDeadlineMakesTheChannelStale : Prop :=
  ∀ (s : State) (n : Nat) (c : Channel) (dl : Deadline),
    let x := c.desc.consumer
    let j := s.journals.get x
    let rs := [mkRecord .stale n c.live (flagBit 0 (c.cond == .empty)) c.pubCount c.lastPub s.clock]
    s.partState ≠ .holdover → s.channel? n = some c → c.freshDl = some dl →
    s.clock - dl.start = dl.limit.setWidth 32 →
    ∃ w, exec (.freshnessDeadlineReached n) s = .next (grant w) ∧
      w.channel? n = some { c with cond := .stale, freshDl := none } ∧
      (∀ m, m ≠ n → w.channel? m = s.channel? m) ∧
      w = { s with
        channels := w.channels
        journals := s.journals.set x (offers s.clock j rs)
        attention := s.attention.modify x fun b => b.told 0 s.clock j rs
        mirror := w.mirror } ∧
      Marks s w (.chanBlock n :: offersMark s.clock x j rs ++ changedReports s w)

/-- R50, R53: a hold deadline reached releases the pin: every member's held buffer becomes none, a PIN_EXPIRED record with
LIMIT, the taint and the mask of the held buffers that were not live goes to the consumer, and PIN_FAULT is raised for it;
nothing else changes. -/
def Obligations.AHoldDeadlineReleasesThePin : Prop :=
  ∀ (s : State) (g : Nat) (gr : Group) (pin : Pin) (dl : Deadline),
    let x := s.groupConsumer g
    let j := s.journals.get x
    let mask := channelMask ((s.members g).filter fun m =>
      match s.channel? m with
      | some k => k.held.isSome && k.held != k.live
      | none => false)
    let rs := [mkRecord .pinExpired g none (flagBit 0 true ||| flagBit 2 pin.tainted) mask pin.openTime s.clock]
    s.group? g = some gr → gr.pin = some pin → pin.deadline = some dl →
    s.clock - dl.start = dl.limit.setWidth 32 →
    ∃ w, exec (.pinRelease g) s = .next (grant w) ∧
      w.group? g = some { gr with pin := none } ∧ (∀ h, h ≠ g → w.group? h = s.group? h) ∧
      (∀ m, w.channel? m =
        if m ∈ s.members g then (s.channel? m).map fun k => { k with held := none } else s.channel? m) ∧
      w = { s with
        channels := w.channels
        groups := w.groups
        journals := s.journals.set x (offers s.clock j rs)
        attention := s.attention.modify x fun b => b.told Cause.pinFault.bit s.clock j rs
        mirror := w.mirror } ∧
      Marks s w (.groupBlock g ::
        ((s.members g).filter fun m =>
          match s.channel? m with
          | some k => k.held.isSome
          | none => false).map .chanBlock ++ offersMark s.clock x j rs ++ changedReports s w)

/-- R41: a gather deadline reached publishes the members that have a pending buffer, in chain order, then offers GROUP_PARTIAL
with the mask of those members to the consumer, and ends the gather; nothing else changes. The chain visits no member twice
and its members have one producer (`ChainLaw`). -/
def Obligations.AGatherDeadlinePublishesThePendingMembers : Prop :=
  ∀ (s : State) (g : Nat) (gr : Group) (q : Gather) (dl : Deadline),
    let x := s.groupConsumer g
    let j := s.journals.get x
    let rs := groupRecords s g x ++
      [mkRecord .groupPartial g none 0 (channelMask (pendingMembers s g)) q.start s.clock]
    ChainLaw s → s.group? g = some gr → gr.gather = some q → q.deadline = some dl →
    s.clock - dl.start = dl.limit.setWidth 32 →
    ∃ w, exec (.partialPublication g) s = .next (grant w) ∧
      w.group? g = some { gr with gather := none } ∧ (∀ h, h ≠ g → w.group? h = s.group? h) ∧
      (∀ m, w.channel? m =
        if m ∈ s.members g then (s.channel? m).map fun k => k.pendPublished s.clock else s.channel? m) ∧
      w = { s with
        channels := w.channels
        groups := w.groups
        journals := s.journals.set x (offers s.clock j rs)
        attention := s.attention.modify x fun b =>
          b.told (causeIf .publish (!(groupRecords s g x).isEmpty)) s.clock j rs
        mirror := w.mirror } ∧
      Marks s w (.groupBlock g :: (pendingMembers s g).map .chanBlock ++ offersMark s.clock x j rs ++ changedReports s w)

/-- R37, R65: a frame tick, in RUNNING, publishes the members that have a pending buffer, in chain order, and advances the
next frame time by the period; nothing else changes. The chain visits no member twice and its members have one producer
(`ChainLaw`). -/
def Obligations.AFrameTickPublishesThePendingMembers : Prop :=
  ∀ (s : State) (g : Nat) (gr : Group),
    let x := s.groupConsumer g
    let j := s.journals.get x
    let rs := groupRecords s g x
    ChainLaw s → s.partState = .running → s.group? g = some gr → gr.desc.mode = some .timed →
    gr.nextFrame = some s.clock →
    ∃ w, exec (.frameTick g) s = .next (grant w) ∧
      w.group? g = some { gr with nextFrame := some (s.clock + gr.desc.period.setWidth 32) } ∧
      (∀ h, h ≠ g → w.group? h = s.group? h) ∧
      (∀ m, w.channel? m =
        if m ∈ s.members g then (s.channel? m).map fun k => k.pendPublished s.clock else s.channel? m) ∧
      w = { s with
        channels := w.channels
        groups := w.groups
        journals := s.journals.set x (offers s.clock j rs)
        attention := s.attention.modify x fun b => b.told (causeIf .publish (!rs.isEmpty)) s.clock j rs
        mirror := w.mirror } ∧
      Marks s w (.groupBlock g :: (pendingMembers s g).map .chanBlock ++ offersMark s.clock x j rs ++ changedReports s w)

/-! ### Journals (R138, R139, R142) -/

/-- R138, R139, R142: a record offered to journal p is written into the slot at W, which advances, behind a GAP record where
records were lost before and two slots are free; it is lost where there is no room: the lost count rises to at most FFFFh, and
the loss that takes it from 0 to 1 raises JOURNAL_LOST and fixes the loss time. The slots written and the head word are
marked, the head word also where only L changed. The ring's other slots, C, H, Rd and everything else stay. By 10.8 and
the table of codes in chapter 7 a record holds the code of its kind in bits 7:0 of W0, the subject in 12:8, the buffer index
in 18:16 (7 for none), the flags in 31:20, and 0 in 15:13 and 19; W1 to W3 are the argument and the times; a mask has bit n for channel n. -/
def Obligations.AnOfferIsWrittenOrCountedAsLost : Prop :=
  (∀ (k : Kind) (subject : Nat) (buf : Option Nat) (flags : BitVec 12) (arg timeA timeB : Word),
    let r := mkRecord k subject buf flags arg timeA timeB
    r.w0.extractLsb' 0 8 = (match k with
      | .published => 0x01#8
      | .superseded => 0x02#8
      | .shed => 0x03#8
      | .fillExpired => 0x04#8
      | .fillAborted => 0x05#8
      | .pinExpired => 0x06#8
      | .pinTainted => 0x07#8
      | .groupPartial => 0x08#8
      | .stale => 0x09#8
      | .violation => 0x0A#8
      | .parity => 0x0B#8
      | .commit => 0x0C#8
      | .holdover => 0x0D#8
      | .gap => 0x0E#8
      | .resumed => 0x0F#8
      | .halted => 0x10#8) ∧
    (subject < 24 → (r.w0.extractLsb' 8 5).toNat = subject) ∧ r.w0.extractLsb' 13 3 = 0 ∧
    (∀ b, buf = some b → b < 4 → (r.w0.extractLsb' 16 3).toNat = b) ∧ (buf = none → r.w0.extractLsb' 16 3 = 7) ∧
    r.w0.getLsbD 19 = false ∧ r.w0.extractLsb' 20 12 = flags ∧ r.w1 = arg ∧ r.w2 = timeA ∧ r.w3 = timeB) ∧
  (∀ (n f : Nat) (b : Bool), f < 12 → (flagBit n b).getLsbD f = (b && f == n)) ∧
  (∀ (ns : List Nat) (n : Nat), n < 32 → ((channelMask ns).getLsbD n = true ↔ n ∈ ns)) ∧
  ∀ (s : State) (p : Port) (r : Record),
    let j := s.journals.get p
    let free := 127 - (j.w - j.rd).toNat
    let t := s.offer p r
    let j' := t.journals.get p
    let gap := mkRecord .gap 0 none (flagBit 0 (j.lost == 0xFFFF)) (j.lost.setWidth 32) j.lossTime s.clock
    t = { s with journals := s.journals.set p j', attention := t.attention, mirror := t.mirror } ∧
    t.attention = (if j.lost = 0 ∧ free = 0 then
        s.attention.modify p fun a => { a with latched := a.latched ||| Cause.journalLost.bit }
      else s.attention) ∧
    (j.lost = 0 → 1 ≤ free →
      j' = { j with ring := j'.ring, w := j.w + 1 } ∧ j'.ring[j.w.toNat]? = some r ∧
        (∀ k : Nat, k ≠ j.w.toNat → j'.ring[k]? = j.ring[k]?) ∧ Marks s t [.slot p j.w, .head p]) ∧
    (j.lost = 0 → free = 0 → j' = { j with lost := 1, lossTime := s.clock } ∧ Marks s t [.head p]) ∧
    (j.lost ≠ 0 → 2 ≤ free →
      j' = { j with ring := j'.ring, w := j.w + 2, lost := 0 } ∧ j'.ring[j.w.toNat]? = some gap ∧
        j'.ring[(j.w + 1).toNat]? = some r ∧
        (∀ k : Nat, k ≠ j.w.toNat → k ≠ (j.w + 1).toNat → j'.ring[k]? = j.ring[k]?) ∧
        Marks s t [.slot p j.w, .slot p (j.w + 1), .head p]) ∧
    (j.lost ≠ 0 → free < 2 →
      j' = { j with lost := if j.lost = 0xFFFF then 0xFFFF else j.lost + 1 } ∧
        Marks s t (if j.lost = 0xFFFF then [] else [.head p]))

/-! ### The install (R58, R89, R113, R123 to R128) -/

/-- R123, R74, R58, R89, R113, R129: at the install the map becomes installed with the valid region entries, the divisor and
the fault-signal settings are those of the parameter word, the prescaler count restarts, the clock stands, the part is
RUNNING, B2 and B3 show the result OK, a remembered request starts READING; each journal is offered its records in the order
of R129, COMMIT is raised for both ports, PIN_FAULT for the consumer of each released pin; B1 to B4, the slots written and
the head words changed are marked, and the sequence in flight goes on with its content, R132 (no chain visits a channel of
another group: `ChainLaw`). Then the held accesses are taken (R95), Port A's first (notes/assumptions/12.md). -/
def Obligations.AnInstallTakesTheNewSettings : Prop :=
  ∀ (s : State) (l : Load),
    s.loader = .draining l → (s.inFlight? .A = none ∧ s.inFlight? .B = none) →
    ∃ w, exec .install s = .next (grant (noteReports s (takeHeld w))) ∧
      (∀ i, i < 16 → (l.region i).valid = false → w.region? i = none) ∧
      (∀ i ra rb, i < 16 → (l.region i).valid = true → (l.region i).rightsA = some ra → (l.region i).rightsB = some rb →
        w.region? i = some { rightsA := ra, rightsB := rb, lbase := (l.region i).lbase, len := (l.region i).len
                             pbase := (l.region i).pbase }) ∧
      (ChainLaw s → ∀ p, w.journals.get p = offers s.clock (s.journals.get p) (installRecords s l p) ∧
        w.attention.get p = (s.attention.get p).told (Cause.commit.bit ||| causeIf .pinFault (releasesPinOf s l p)) s.clock
          (s.journals.get p) (installRecords s l p)) ∧
      (ChainLaw s → ∀ i, (∀ n, i ≠ .chanBlock n ∧ i ≠ .groupBlock n) →
        (Marked w i ↔ Marked s i ∨ i ∈ ([.part 1, .part 2, .part 3, .part 4] : List MirrorItem) ++
          offersMark s.clock .A s.journals.a (installRecords s l .A) ++
          offersMark s.clock .B s.journals.b (installRecords s l .B))) ∧
      SequencesKept s w ∧
      w.mapState = .installed ∧ w.partState = .running ∧ w.installedGen = l.gen ∧
      w.lastResult = { gen := l.gen, code := .ok, detail := { table := .none, index := 0 } } ∧
      w.divisor = (l.param.extractLsb' 0 8).toNat + 1 ∧ w.prescaler = 0 ∧ w.clock = s.clock ∧
      ((w.ports.get .A).faultSignal = true ↔ l.param.extractLsb' 8 2 = 0b10#2) ∧
      ((w.ports.get .B).faultSignal = true ↔ l.param.extractLsb' 10 2 = 0b10#2) ∧
      (∀ p, w.access p = s.access p ∧ (w.ports.get p).req = (s.ports.get p).req) ∧
      w.loader = (match s.remembered with
        | some gen => .reading { gen := gen, start := s.clock, words := [], firstFail := none, cands := [], resume := [] }
        | none => .idle) ∧
      w.remembered = none ∧
      (∀ n, n ∈ [1, 2, 3, 4] → Marked w (.part n)) ∧
      w.mem = s.mem ∧ w.cycle = s.cycle ∧ w.lastGranted = s.lastGranted ∧ w.pins = s.pins ∧ w.msz = s.msz ∧
      w.configPort = s.configPort ∧ w.pending = s.pending

/-- R124 to R128, R3, R33, R62, R64, R71: after the install, place n of the channels holds the carried channel where W0 to W6
are identical, with its runtime record, its new W7 and its deadlines re-formed; it keeps its pending and its held buffer
where its group is carried, and loses them where it is not (a held buffer stands only under an open pin, R44). It holds a
channel created, EMPTY or resumed, where the new descriptor is valid and not carried; nothing where it is not valid. Place n
of the groups holds the carried group with its pin, its gather, their deadlines re-formed, and its next frame time; a group
created without pin and gather, TIMED with the first next frame time of R64; or nothing. The block of every channel and group
installed is marked; that of a channel or group that has ended with none in its place is not (notes/assumptions/15.md); the
others stay as they were. R127: a group is carried where W0, the chain and every member are the same. R125: the buffer
resumed is the live index of a status word of even count, with both checks passed and the same signature. R62: a re-formed
deadline is cancelled, keeps its start, or falls due at the next tick; one under an unchanged limit is kept
(notes/assumptions/16.md, and 24.md for an EMPTY channel's). No chain visits a channel of another group: `ChainLaw`. R110: a
signature is the sum modulo 65536 of the fourteen halves of W0 to W6. R59: a limit of 0 forms no deadline. -/
def Obligations.AnInstallCarriesCreatesAndEnds : Prop :=
  (∀ (s : State) (l : Load) (n : Nat), n < 24 →
    s.loader = .draining l → (s.inFlight? .A = none ∧ s.inFlight? .B = none) →
    ∃ w, exec .install s = .next (grant (noteReports s (takeHeld w))) ∧
      ((l.chan n).valid = false → w.channel? n = none) ∧
      (∀ c, ChainLaw s → s.channel? n = some c → (l.chan n).valid = true → (l.chan n).sameBody c.desc = true →
        let kept := carriesGroup s l c.desc.group
        let pinOpen : Bool := ((s.group? c.desc.group).bind (·.pin)).isSome
        w.channel? n = some { c with
          desc := l.chan n
          pend := if kept then c.pend else none
          held := if kept || !pinOpen then c.held else none
          pass := c.pass.map fun q => { q with
            deadline := carryDeadline q.deadline q.openTime c.desc.fillLimit (l.chan n).fillLimit s.clock }
          freshDl := match c.cond with
            | .fresh => reformDeadline c.lastPub (l.chan n).freshLimit s.clock
            | .empty => reformDeadline s.clock (l.chan n).freshLimit s.clock
            | .stale => none }) ∧
      ((l.chan n).valid = true → (∀ c, s.channel? n = some c → (l.chan n).sameBody c.desc = false) →
        w.channel? n = some
          { desc := l.chan n
            sig := (l.chan n).signature
            cond := if (l.resumed n).isSome then .fresh else .empty
            halted := false, live := l.resumed n, pend := none, pass := none, held := none, blank := false
            fillSeq := 0, pubCount := 0
            lastPub := if (l.resumed n).isSome then s.clock else 0
            freshDl := formDeadline s.clock (l.chan n).freshLimit }) ∧
      ((l.group n).valid = false → w.group? n = none) ∧
      (∀ gr, s.group? n = some gr → carriesGroup s l n = true →
        w.group? n = some { gr with
          desc := l.group n
          pin := gr.pin.map fun q => { q with
            deadline := carryDeadline q.deadline q.openTime gr.desc.holdLimit (l.group n).holdLimit s.clock }
          gather := gr.gather.map fun q => { q with
            deadline := carryDeadline q.deadline q.start gr.desc.window (l.group n).window s.clock } }) ∧
      ((l.group n).valid = true → carriesGroup s l n = false →
        w.group? n = some
          { desc := l.group n
            pin := none
            gather := none
            nextFrame := if (l.group n).mode = some .timed then
                some (s.clock + (if (l.group n).phase = 0 then (l.group n).period else (l.group n).phase).setWidth 32)
              else none }) ∧
      ((l.chan n).valid = true → Marked w (.chanBlock n)) ∧ ((l.group n).valid = true → Marked w (.groupBlock n)) ∧
      ((s.channel? n).isSome = true → (l.chan n).valid = false → ¬ Marked w (.chanBlock n)) ∧
      ((s.group? n).isSome = true → (l.group n).valid = false → ¬ Marked w (.groupBlock n)) ∧
      (ChainLaw s → s.channel? n = none → (l.chan n).valid = false →
        (Marked w (.chanBlock n) ↔ Marked s (.chanBlock n))) ∧
      (ChainLaw s → s.group? n = none → (l.group n).valid = false →
        (Marked w (.groupBlock n) ↔ Marked s (.groupBlock n))) ∧
      SequencesKept s w) ∧
  (∀ (s : State) (l : Load) (g : Nat), carriesGroup s l g = true ↔ ∃ gr, s.group? g = some gr ∧ (l.group g).valid = true ∧
    (l.group g).w0 = gr.desc.w0 ∧ l.chain g = s.members g ∧
    ∀ m ∈ s.members g, ∃ c, s.channel? m = some c ∧ (l.chan m).valid = true ∧ (l.chan m).sameBody c.desc = true) ∧
  (∀ (l : Load) (g n : Nat), l.walksTo g n = true → l.chain g = (List.range n).map (l.member g)) ∧
  (∀ (l : Load) (n b : Nat), l.resumed n = some b ↔ (l.chan n).resume = true ∧ ∃ k s0 s3, l.cands.idxOf? n = some k ∧
    l.resume[2 * k]? = some (s0, true) ∧ l.resume[2 * k + 1]? = some (s3, true) ∧
    s3.extractLsb' 0 16 = (l.chan n).signature ∧ s0.getLsbD 0 = false ∧ b = (s0.extractLsb' 8 3).toNat ∧
    b < (l.chan n).depth) ∧
  (∀ d e : ChanDesc, d.sameBody e = true ↔ d.w0 = e.w0 ∧ d.w1 = e.w1 ∧ d.w2 = e.w2 ∧ d.w3 = e.w3 ∧ d.w4 = e.w4 ∧
    d.w5 = e.w5 ∧ d.w6 = e.w6) ∧
  (∀ d : ChanDesc, d.signature.toNat = (([d.w0, d.w1, d.w2, d.w3, d.w4, d.w5, d.w6].map fun w =>
    (w.extractLsb' 16 16).toNat + (w.extractLsb' 0 16).toNat).sum) % 65536) ∧
  (∀ (start : Word) (limit : BitVec 16), (limit = 0 → formDeadline start limit = none) ∧
    (limit ≠ 0 → formDeadline start limit = some { start := start, limit := limit })) ∧
  (∀ (start now : Word) (limit : BitVec 16),
    (limit = 0 → reformDeadline start limit now = none) ∧
    (limit ≠ 0 → (now - start).toNat < limit.toNat → reformDeadline start limit now = some { start := start, limit := limit }) ∧
    (limit ≠ 0 → limit.toNat ≤ (now - start).toNat → reformDeadline start limit now = some { start := now, limit := 1 })) ∧
  (∀ (dl : Option Deadline) (openTime now : Word) (old new : BitVec 16),
    (old = new → carryDeadline dl openTime old new now = dl) ∧
    (old ≠ new → dl = none → carryDeadline dl openTime old new now = reformDeadline openTime new now) ∧
    (∀ x, old ≠ new → dl = some x → carryDeadline dl openTime old new now = reformDeadline x.start new now))

/-! ### Part state (R107, R168 to R175) -/

/-- R172 to R174: a fall of PFAIL_N in UNCONFIGURED or RUNNING starts holdover: every open pass is aborted, every gather
cancelled, every pending, live and held buffer, condition, halted field and pin stays, the Loader becomes IDLE and a load in
progress ends ABANDONED; then the held accesses are taken. In HOLDOVER, and while RST_N is low, the fall changes the pin alone.
R172: where a fall of RST_N comes together with it (RESET_ASSERT stands next in the queue: the model's choice,
notes/assumptions/26.md), no grant falls between the two: memory and the cycle of the M port stay as they were, and the reset
leaves the part as it would without the holdover. "Both orders leave the part in the same state after the rise": stated of the
runs in which PFAIL_N falls first and in which RST_N falls first, each with the rise of RST_N after the two. -/
def Obligations.AFallOfPfailStartsHoldover : Prop :=
  ∀ s : State,
    let u := settle s
    let done : State → State := fun x => if s.pending.head? = some .resetAssert then x else grant x
    (u.pins.rstN = false ∨ u.partState = .holdover →
      exec .holdoverStart s = .next (done { u with pins := { u.pins with pfailN := false } })) ∧
    (∀ rest, s.pending = .resetAssert :: rest → settled u = true →
      ∃ t, exec .holdoverStart s = .next t ∧ t.mem = u.mem ∧ t.cycle = u.cycle ∧
        exec .resetAssert { t with pending := rest } =
          exec .resetAssert { u with pending := rest, pins := { u.pins with pfailN := false } }) ∧
    (∀ m c f rest, settled s = true → ∃ x x' y y' z,
      step { s with pending := .holdoverStart :: .resetAssert :: .resetRelease m c f :: rest } = .next x ∧
      step x = .next x' ∧ step x' = .next z ∧
      step { s with pending := .resetAssert :: .holdoverStart :: .resetRelease m c f :: rest } = .next y ∧
      step y = .next y' ∧ step y' = .next z) ∧
    (u.pins.rstN = true → u.partState ≠ .holdover →
    ∃ w, exec .holdoverStart s = .next (done (noteReports u (takeHeld w))) ∧
      w.partState = .holdover ∧ w.pins = { u.pins with pfailN := false } ∧ Marked w (.part 1) ∧
      (∀ n, w.channel? n = (u.channel? n).map fun c => { c with pass := none }) ∧
      (∀ n c, u.channel? n = some c → c.pass ≠ none → Marked w (.chanBlock n)) ∧
      (∀ g, w.group? g = (u.group? g).map fun gr => { gr with gather := none }) ∧
      (∀ g gr, u.group? g = some gr → gr.gather ≠ none → Marked w (.groupBlock g)) ∧
      w.loader = .idle ∧
      (∀ l, u.loader = .reading l ∨ u.loader = .draining l →
        w.lastResult = { gen := l.gen, code := .abandoned, detail := { table := .none, index := 0 } } ∧
        w.remembered = none ∧ ∀ p, (w.attention.get p).latched.getLsbD 7 = true) ∧
      SequencesKept u w ∧
      (u.loader = .idle → w.lastResult = u.lastResult ∧ w.remembered = u.remembered) ∧
      w = { u with
        pins := w.pins, partState := w.partState, channels := w.channels, groups := w.groups, loader := w.loader,
        remembered := w.remembered, lastResult := w.lastResult, journals := w.journals, attention := w.attention,
        mirror := w.mirror })

/-- R175: the records of the start of holdover: to each journal the HOLDOVER record, with the state left, ABANDONED where a
load is in progress and the mask of the pending buffers kept; then the FILL_ABORTED records of the passes aborted in the
channels that the port produces, by increasing channel number; then the COMMIT record of the load abandoned, for which COMMIT
is raised. Exactly the words and blocks that change are marked. Then the held accesses are taken (R95), Port A's first
(notes/assumptions/12.md). R172: the event's grant is made unless the fall of RST_N comes together with that of PFAIL_N
(notes/assumptions/26.md). -/
def Obligations.HoldoverRecordsGoInOrder : Prop :=
  ∀ s : State,
    let u := settle s
    let done : State → State := fun x => if s.pending.head? = some .resetAssert then x else grant x
    let mask := channelMask ((List.range 24).filter u.hasPending)
    let left : BitVec 12 := if u.partState = .running then 1 else 0
    let load : Option Load :=
      match u.loader with
      | .idle => none
      | .reading l => some l
      | .draining l => some l
    let aborted : Port → List Record := fun p => (List.range 24).filterMap fun n =>
      match u.channel? n with
      | some c =>
        match c.pass with
        | some q =>
          if c.desc.producer = p then
            some (mkRecord .fillAborted n q.target.buffer? (flagBit 2 true) q.seq q.openTime u.clock)
          else none
        | none => none
      | none => none
    let commit : List Record :=
      match load with
      | some l =>
        [commitRecord { gen := l.gen, code := .abandoned, detail := { table := .none, index := 0 } } l.start u.clock]
      | none => []
    let rs : Port → List Record := fun p =>
      mkRecord .holdover 0 none (left ||| flagBit 2 load.isSome) mask u.clock 0 :: aborted p ++ commit
    u.pins.rstN = true → u.partState ≠ .holdover →
    ∃ w, exec .holdoverStart s = .next (done (noteReports u (takeHeld w))) ∧
      (∀ p, w.journals.get p = offers u.clock (u.journals.get p) (rs p) ∧
        w.attention.get p =
          (u.attention.get p).told (causeIf .commit load.isSome) u.clock (u.journals.get p) (rs p)) ∧
      Marks u w (.part 1 :: (if load.isSome then [.part 2, .part 3] else []) ++
        ((List.range 24).filter fun n => ((u.channel? n).bind (·.pass)).isSome).map .chanBlock ++
        ((List.range 24).filter fun g => ((u.group? g).bind (·.gather)).isSome).map .groupBlock ++
        offersMark u.clock .A u.journals.a (rs .A) ++ offersMark u.clock .B u.journals.b (rs .B))

/-- R168, R57, R74, R107, R135, R153, R166: at a fall of RST_N every block takes its reset values; the queue, the pins'
levels, the sampled straps (until the next rise) and memory are all that is left of the state before. Memory is as it was but
for the driven lanes of a word under a write cycle, which `Obligations.AResetSparesAllButTheLanesBeingWritten` bounds (R107).
The zeros in the rings of the journals are the model's choice (notes/assumptions/11.md). -/
def Obligations.AFallOfRstResetsEveryBlock : Prop :=
  ∀ s : State, (settle s).pins.rstN = true →
    ∃ t, exec .resetAssert s = .next t ∧
      t = { State.reset with
        pending := s.pending
        pins := { (settle s).pins with rstN := false }
        msz := (settle s).msz
        configPort := (settle s).configPort
        ports :=
          { a := { req := ((settle s).ports.get .A).req, inputs := ((settle s).ports.get .A).inputs, access := .idle,
                   faultSignal := false }
            b := { req := ((settle s).ports.get .B).req, inputs := ((settle s).ports.get .B).inputs, access := .idle,
                   faultSignal := false } }
        mem := cutMem (settle s)
        freeCtr := t.freeCtr }

/-- R169, R170, R85, R74: a rise of RST_N samples the straps: MSZ gives the fitted size, CFGP the configuring port. With
PFAIL_N high nothing else changes. R172, R178: with PFAIL_N low, holdover starts at that rise: both journals of a part without
channels and without a load receive the HOLDOVER record, with flag UNCONFIGURED and argument 0. R92: then a port whose REQ is
high takes an arrival at that rise, with its inputs as driven: A's, then B's (notes/assumptions/12.md), after the start of
holdover (notes/assumptions/13.md). Where nothing is due, the rise is for the one port whose REQ is high what its access is
that arrives after the rise. -/
def Obligations.ARiseOfRstSamplesTheStraps : Prop :=
  ∀ (s : State) (m : BitVec 2) (h : Bool),
    let arrived : Port → State → State := fun p x =>
      if (s.ports.get p).req = true then arrive p (s.ports.get p).inputs x else x
    let risen : State :=
      { s with
        pins := { rstN := true, pfailN := true, msz := m, cfgp := h }
        msz := m
        configPort := if h then .B else .A
        requestLines := { a := true, b := true, engine := true } }
    s.pins.rstN = false → s.access .A = .idle → s.access .B = .idle →
    (exec (.resetRelease m h false) s = .next (grant (noteReports s (arrived .B (arrived .A risen)))) ∧
      fittedWords risen.msz = 0x8000 * (m.toNat + 1)) ∧
    (∀ p, (s.ports.get p).req = true → (s.ports.get p.other).req = false →
      let before := { risen with ports := risen.ports.modify p fun q => { q with req := false } }
      settled before = true →
      exec (.resetRelease m h false) s = exec (.portAccessTake p (s.ports.get p).inputs) before) ∧
    (s.partState = .unconfigured → (∀ n, s.channel? n = none) → (∀ g, s.group? g = none) → s.loader = .idle →
      let rs := [mkRecord .holdover 0 none 0 0 s.clock 0]
      ∃ w, exec (.resetRelease m h true) s = .next (grant (noteReports s (arrived .B (arrived .A w)))) ∧
        w = { risen with
          pins := { risen.pins with pfailN := false }
          partState := .holdover
          journals := { a := offers s.clock s.journals.a rs, b := offers s.clock s.journals.b rs }
          attention := { a := s.attention.a.told 0 s.clock s.journals.a rs, b := s.attention.b.told 0 s.clock s.journals.b rs }
          mirror := w.mirror } ∧
        Marks s w (.part 1 :: offersMark s.clock .A s.journals.a rs ++ offersMark s.clock .B s.journals.b rs))

/-- R57, R74, R107, R108, R135, R153, R166, R167: the values that the spec states for reset, in the part as it is while RST_N
is low. -/
def Obligations.ResetHoldsTheStatedValues : Prop :=
  let r := State.reset
  r.clock = 0 ∧ r.divisor = 1 ∧ r.prescaler = 0 ∧ r.partState = .unconfigured ∧ r.mapState = .unconfigured ∧
  (∀ n, r.channel? n = none) ∧ (∀ g, r.group? g = none) ∧ (∀ i, r.region? i = none) ∧ r.lastGranted = .engine ∧
  r.cycle = none ∧ r.loader = .idle ∧ r.remembered = none ∧ r.installedGen = 0 ∧
  r.lastResult = { gen := 0, code := .ok, detail := { table := .none, index := 0 } } ∧
  r.mirror.flight = none ∧
  (∀ i, i ∈ r.mirror.dirty ↔ i ∈ ([.part 0, .part 1, .part 2, .part 3, .part 4, .report .A, .report .B, .head .A, .head .B] :
    List MirrorItem)) ∧
  (∀ n, n < 24 → r.mirror.count (.chanBlock n) = 0 ∧ r.mirror.count (.groupBlock n) = 0) ∧
  (∀ p, r.access p = .idle ∧ (r.ports.get p).faultSignal = false ∧
    (r.journals.get p).w = 0 ∧ (r.journals.get p).c = 0 ∧ (r.journals.get p).h = 0 ∧ (r.journals.get p).rd = 0 ∧
    (r.journals.get p).lost = 0 ∧ (r.journals.get p).lossTime = 0 ∧
    (r.attention.get p).latched = 0 ∧ pendingSet r p = 0 ∧ (r.attention.get p).enable = 0 ∧
    (r.attention.get p).repSeq = 0 ∧ (r.attention.get p).reported = 0 ∧ (r.attention.get p).line = false)

/-! ### Laws that every step keeps -/

/-- The state after reset meets every law. -/
def Obligations.ResetMeetsTheLaws : Prop :=
  MemoryLaw State.reset ∧ PrescalerLaw State.reset ∧ LineLaw State.reset ∧ RoleLaw State.reset ∧
    HoldoverLaw State.reset ∧ JournalLaw State.reset ∧ FittedLaw State.reset ∧ ChainLaw State.reset ∧ MirrorOrderLaw State.reset ∧
    FrameLaw State.reset

/-- R55: every step keeps the divisor in 1 to 256 and the count below it; every step keeps memory in its canonical
form; and every step keeps the order of starts of the Mirror without a circle, so that an allowed item may always be started
(R133, notes/assumptions/9.md). -/
def Obligations.EveryStepKeepsMemoryPrescalerAndMirrorOrder : Prop :=
  ∀ s t : State, step s = .next t → (MemoryLaw s → MemoryLaw t) ∧ (PrescalerLaw s → PrescalerLaw t) ∧
    (MirrorOrderLaw s → MirrorOrderLaw t)

/-- R163: every step keeps each attention line asserted exactly while its reported set shares a cause with its enable set. -/
def Obligations.EveryStepKeepsTheLineLaw : Prop :=
  ∀ s t : State, LineLaw s → step s = .next t → LineLaw t

/-- R4: every step keeps the law of the buffer roles. -/
def Obligations.EveryStepKeepsTheRoleLaw : Prop :=
  ∀ s t : State, RoleLaw s → step s = .next t → RoleLaw t

/-- R167, R173, R174: every step keeps the law of holdover; in HOLDOVER no buffer becomes live and no pending buffer is
published or dropped; and only a fall of RST_N leaves HOLDOVER. -/
def Obligations.HoldoverStopsEveryImage : Prop :=
  ∀ s t : State, HoldoverLaw s → step s = .next t →
    HoldoverLaw t ∧
    (s.partState = .holdover →
      (t.partState = .holdover ∧ ∀ n, (t.channel? n).map (fun c => (c.live, c.pend, c.pubCount, c.cond)) =
        (s.channel? n).map (fun c => (c.live, c.pend, c.pubCount, c.cond))) ∨
      (s.pending.head? = some .resetAssert ∧ t.partState = .unconfigured))

/-- R137: every step keeps the law of the journals. -/
def Obligations.EveryStepKeepsTheJournalLaw : Prop :=
  ∀ s t : State, JournalLaw s → step s = .next t → JournalLaw t

/-- R31, R30: every step keeps every installed channel on the one chain of its group, from the first member by next-member
fields to END. R64, R118: every step keeps the period of every installed TIMED group at 1 or more (`FrameLaw`). -/
def Obligations.EveryStepKeepsTheChainLaw : Prop :=
  ∀ s t : State, step s = .next t → (ChainLaw s → ChainLaw t) ∧ (FrameLaw s → FrameLaw t)

/-- R86, R76: every step keeps the M port below the fitted size. -/
def Obligations.EveryStepKeepsTheFittedLaw : Prop :=
  ∀ s t : State, FittedLaw s → step s = .next t → FittedLaw t
end

