-- ==== Sys2Proof/Laws/State.lean ====
section
/-! SUPPORT. What each shared update of the state does to each field: one lemma for each field it leaves alone, and one for
the field it changes. All hold by definition; no later proof unfolds a record update. -/
namespace Sys2Proof.Machine

/-! ### State.mark -/

@[simp] theorem State.mark_pending (s : State) (i : MirrorItem) : (s.mark i).pending = s.pending := rfl
@[simp] theorem State.mark_pins (s : State) (i : MirrorItem) : (s.mark i).pins = s.pins := rfl
@[simp] theorem State.mark_partState (s : State) (i : MirrorItem) : (s.mark i).partState = s.partState := rfl
@[simp] theorem State.mark_msz (s : State) (i : MirrorItem) : (s.mark i).msz = s.msz := rfl
@[simp] theorem State.mark_configPort (s : State) (i : MirrorItem) : (s.mark i).configPort = s.configPort := rfl
@[simp] theorem State.mark_ports (s : State) (i : MirrorItem) : (s.mark i).ports = s.ports := rfl
@[simp] theorem State.mark_mapState (s : State) (i : MirrorItem) : (s.mark i).mapState = s.mapState := rfl
@[simp] theorem State.mark_regions (s : State) (i : MirrorItem) : (s.mark i).regions = s.regions := rfl
@[simp] theorem State.mark_channels (s : State) (i : MirrorItem) : (s.mark i).channels = s.channels := rfl
@[simp] theorem State.mark_groups (s : State) (i : MirrorItem) : (s.mark i).groups = s.groups := rfl
@[simp] theorem State.mark_clock (s : State) (i : MirrorItem) : (s.mark i).clock = s.clock := rfl
@[simp] theorem State.mark_divisor (s : State) (i : MirrorItem) : (s.mark i).divisor = s.divisor := rfl
@[simp] theorem State.mark_prescaler (s : State) (i : MirrorItem) : (s.mark i).prescaler = s.prescaler := rfl
@[simp] theorem State.mark_lastGranted (s : State) (i : MirrorItem) : (s.mark i).lastGranted = s.lastGranted := rfl
@[simp] theorem State.mark_requestLines (s : State) (i : MirrorItem) : (s.mark i).requestLines = s.requestLines := rfl
@[simp] theorem State.mark_cycle (s : State) (i : MirrorItem) : (s.mark i).cycle = s.cycle := rfl
@[simp] theorem State.mark_mem (s : State) (i : MirrorItem) : (s.mark i).mem = s.mem := rfl
@[simp] theorem State.mark_loader (s : State) (i : MirrorItem) : (s.mark i).loader = s.loader := rfl
@[simp] theorem State.mark_remembered (s : State) (i : MirrorItem) : (s.mark i).remembered = s.remembered := rfl
@[simp] theorem State.mark_installedGen (s : State) (i : MirrorItem) : (s.mark i).installedGen = s.installedGen := rfl
@[simp] theorem State.mark_lastResult (s : State) (i : MirrorItem) : (s.mark i).lastResult = s.lastResult := rfl
@[simp] theorem State.mark_mirror (s : State) (i : MirrorItem) : (s.mark i).mirror = s.mirror.mark i := rfl
@[simp] theorem State.mark_journals (s : State) (i : MirrorItem) : (s.mark i).journals = s.journals := rfl
@[simp] theorem State.mark_attention (s : State) (i : MirrorItem) : (s.mark i).attention = s.attention := rfl
@[simp] theorem State.mark_freeCtr (s : State) (i : MirrorItem) : (s.mark i).freeCtr = s.freeCtr := rfl
@[simp] theorem State.mark_channel_at (s : State) (i : MirrorItem) (n' : Nat) : (s.mark i).channel? n' = s.channel? n' := rfl
@[simp] theorem State.mark_group_at (s : State) (i : MirrorItem) (g' : Nat) : (s.mark i).group? g' = s.group? g' := rfl
@[simp] theorem State.mark_members_of (s : State) (i : MirrorItem) (g' : Nat) : (s.mark i).members g' = s.members g' := rfl
@[simp] theorem State.mark_access_of (s : State) (i : MirrorItem) (p' : Port) : (s.mark i).access p' = s.access p' := rfl

/-! ### State.raise -/

@[simp] theorem State.raise_pending (s : State) (p : Port) (c : Cause) : (s.raise p c).pending = s.pending := rfl
@[simp] theorem State.raise_pins (s : State) (p : Port) (c : Cause) : (s.raise p c).pins = s.pins := rfl
@[simp] theorem State.raise_partState (s : State) (p : Port) (c : Cause) : (s.raise p c).partState = s.partState := rfl
@[simp] theorem State.raise_msz (s : State) (p : Port) (c : Cause) : (s.raise p c).msz = s.msz := rfl
@[simp] theorem State.raise_configPort (s : State) (p : Port) (c : Cause) : (s.raise p c).configPort = s.configPort := rfl
@[simp] theorem State.raise_ports (s : State) (p : Port) (c : Cause) : (s.raise p c).ports = s.ports := rfl
@[simp] theorem State.raise_mapState (s : State) (p : Port) (c : Cause) : (s.raise p c).mapState = s.mapState := rfl
@[simp] theorem State.raise_regions (s : State) (p : Port) (c : Cause) : (s.raise p c).regions = s.regions := rfl
@[simp] theorem State.raise_channels (s : State) (p : Port) (c : Cause) : (s.raise p c).channels = s.channels := rfl
@[simp] theorem State.raise_groups (s : State) (p : Port) (c : Cause) : (s.raise p c).groups = s.groups := rfl
@[simp] theorem State.raise_clock (s : State) (p : Port) (c : Cause) : (s.raise p c).clock = s.clock := rfl
@[simp] theorem State.raise_divisor (s : State) (p : Port) (c : Cause) : (s.raise p c).divisor = s.divisor := rfl
@[simp] theorem State.raise_prescaler (s : State) (p : Port) (c : Cause) : (s.raise p c).prescaler = s.prescaler := rfl
@[simp] theorem State.raise_lastGranted (s : State) (p : Port) (c : Cause) : (s.raise p c).lastGranted = s.lastGranted := rfl
@[simp] theorem State.raise_requestLines (s : State) (p : Port) (c : Cause) : (s.raise p c).requestLines = s.requestLines := rfl
@[simp] theorem State.raise_cycle (s : State) (p : Port) (c : Cause) : (s.raise p c).cycle = s.cycle := rfl
@[simp] theorem State.raise_mem (s : State) (p : Port) (c : Cause) : (s.raise p c).mem = s.mem := rfl
@[simp] theorem State.raise_loader (s : State) (p : Port) (c : Cause) : (s.raise p c).loader = s.loader := rfl
@[simp] theorem State.raise_remembered (s : State) (p : Port) (c : Cause) : (s.raise p c).remembered = s.remembered := rfl
@[simp] theorem State.raise_installedGen (s : State) (p : Port) (c : Cause) : (s.raise p c).installedGen = s.installedGen := rfl
@[simp] theorem State.raise_lastResult (s : State) (p : Port) (c : Cause) : (s.raise p c).lastResult = s.lastResult := rfl
@[simp] theorem State.raise_mirror (s : State) (p : Port) (c : Cause) : (s.raise p c).mirror = s.mirror := rfl
@[simp] theorem State.raise_journals (s : State) (p : Port) (c : Cause) : (s.raise p c).journals = s.journals := rfl
@[simp] theorem State.raise_attention (s : State) (p : Port) (c : Cause) :
    (s.raise p c).attention = (s.attention.modify p fun a => { a with latched := a.latched ||| c.bit }) := rfl
@[simp] theorem State.raise_freeCtr (s : State) (p : Port) (c : Cause) : (s.raise p c).freeCtr = s.freeCtr := rfl
@[simp] theorem State.raise_channel_at (s : State) (p : Port) (c : Cause) (n' : Nat) : (s.raise p c).channel? n' = s.channel? n' := rfl
@[simp] theorem State.raise_group_at (s : State) (p : Port) (c : Cause) (g' : Nat) : (s.raise p c).group? g' = s.group? g' := rfl
@[simp] theorem State.raise_members_of (s : State) (p : Port) (c : Cause) (g' : Nat) : (s.raise p c).members g' = s.members g' := rfl
@[simp] theorem State.raise_access_of (s : State) (p : Port) (c : Cause) (p' : Port) : (s.raise p c).access p' = s.access p' := rfl

/-! ### State.offer -/

@[simp] theorem State.offer_pending (s : State) (p : Port) (r : Record) : (s.offer p r).pending = s.pending := rfl
@[simp] theorem State.offer_pins (s : State) (p : Port) (r : Record) : (s.offer p r).pins = s.pins := rfl
@[simp] theorem State.offer_partState (s : State) (p : Port) (r : Record) : (s.offer p r).partState = s.partState := rfl
@[simp] theorem State.offer_msz (s : State) (p : Port) (r : Record) : (s.offer p r).msz = s.msz := rfl
@[simp] theorem State.offer_configPort (s : State) (p : Port) (r : Record) : (s.offer p r).configPort = s.configPort := rfl
@[simp] theorem State.offer_ports (s : State) (p : Port) (r : Record) : (s.offer p r).ports = s.ports := rfl
@[simp] theorem State.offer_mapState (s : State) (p : Port) (r : Record) : (s.offer p r).mapState = s.mapState := rfl
@[simp] theorem State.offer_regions (s : State) (p : Port) (r : Record) : (s.offer p r).regions = s.regions := rfl
@[simp] theorem State.offer_channels (s : State) (p : Port) (r : Record) : (s.offer p r).channels = s.channels := rfl
@[simp] theorem State.offer_groups (s : State) (p : Port) (r : Record) : (s.offer p r).groups = s.groups := rfl
@[simp] theorem State.offer_clock (s : State) (p : Port) (r : Record) : (s.offer p r).clock = s.clock := rfl
@[simp] theorem State.offer_divisor (s : State) (p : Port) (r : Record) : (s.offer p r).divisor = s.divisor := rfl
@[simp] theorem State.offer_prescaler (s : State) (p : Port) (r : Record) : (s.offer p r).prescaler = s.prescaler := rfl
@[simp] theorem State.offer_lastGranted (s : State) (p : Port) (r : Record) : (s.offer p r).lastGranted = s.lastGranted := rfl
@[simp] theorem State.offer_requestLines (s : State) (p : Port) (r : Record) : (s.offer p r).requestLines = s.requestLines := rfl
@[simp] theorem State.offer_cycle (s : State) (p : Port) (r : Record) : (s.offer p r).cycle = s.cycle := rfl
@[simp] theorem State.offer_mem (s : State) (p : Port) (r : Record) : (s.offer p r).mem = s.mem := rfl
@[simp] theorem State.offer_loader (s : State) (p : Port) (r : Record) : (s.offer p r).loader = s.loader := rfl
@[simp] theorem State.offer_remembered (s : State) (p : Port) (r : Record) : (s.offer p r).remembered = s.remembered := rfl
@[simp] theorem State.offer_installedGen (s : State) (p : Port) (r : Record) : (s.offer p r).installedGen = s.installedGen := rfl
@[simp] theorem State.offer_lastResult (s : State) (p : Port) (r : Record) : (s.offer p r).lastResult = s.lastResult := rfl
@[simp] theorem State.offer_journals (s : State) (p : Port) (r : Record) : (s.offer p r).journals = s.journals.set p ((s.journals.get p).offer r s.clock) := rfl
@[simp] theorem State.offer_freeCtr (s : State) (p : Port) (r : Record) : (s.offer p r).freeCtr = s.freeCtr := rfl
@[simp] theorem State.offer_channel_at (s : State) (p : Port) (r : Record) (n' : Nat) : (s.offer p r).channel? n' = s.channel? n' := rfl
@[simp] theorem State.offer_group_at (s : State) (p : Port) (r : Record) (g' : Nat) : (s.offer p r).group? g' = s.group? g' := rfl
@[simp] theorem State.offer_members_of (s : State) (p : Port) (r : Record) (g' : Nat) : (s.offer p r).members g' = s.members g' := rfl
@[simp] theorem State.offer_access_of (s : State) (p : Port) (r : Record) (p' : Port) : (s.offer p r).access p' = s.access p' := rfl

/-! ### State.setAccess -/

@[simp] theorem State.setAccess_pending (s : State) (p : Port) (a : AccessState) : (s.setAccess p a).pending = s.pending := rfl
@[simp] theorem State.setAccess_pins (s : State) (p : Port) (a : AccessState) : (s.setAccess p a).pins = s.pins := rfl
@[simp] theorem State.setAccess_partState (s : State) (p : Port) (a : AccessState) : (s.setAccess p a).partState = s.partState := rfl
@[simp] theorem State.setAccess_msz (s : State) (p : Port) (a : AccessState) : (s.setAccess p a).msz = s.msz := rfl
@[simp] theorem State.setAccess_configPort (s : State) (p : Port) (a : AccessState) : (s.setAccess p a).configPort = s.configPort := rfl
@[simp] theorem State.setAccess_ports (s : State) (p : Port) (a : AccessState) :
    (s.setAccess p a).ports = (s.ports.modify p fun q => { q with access := a }) := rfl
@[simp] theorem State.setAccess_mapState (s : State) (p : Port) (a : AccessState) : (s.setAccess p a).mapState = s.mapState := rfl
@[simp] theorem State.setAccess_regions (s : State) (p : Port) (a : AccessState) : (s.setAccess p a).regions = s.regions := rfl
@[simp] theorem State.setAccess_channels (s : State) (p : Port) (a : AccessState) : (s.setAccess p a).channels = s.channels := rfl
@[simp] theorem State.setAccess_groups (s : State) (p : Port) (a : AccessState) : (s.setAccess p a).groups = s.groups := rfl
@[simp] theorem State.setAccess_clock (s : State) (p : Port) (a : AccessState) : (s.setAccess p a).clock = s.clock := rfl
@[simp] theorem State.setAccess_divisor (s : State) (p : Port) (a : AccessState) : (s.setAccess p a).divisor = s.divisor := rfl
@[simp] theorem State.setAccess_prescaler (s : State) (p : Port) (a : AccessState) : (s.setAccess p a).prescaler = s.prescaler := rfl
@[simp] theorem State.setAccess_lastGranted (s : State) (p : Port) (a : AccessState) : (s.setAccess p a).lastGranted = s.lastGranted := rfl
@[simp] theorem State.setAccess_requestLines (s : State) (p : Port) (a : AccessState) : (s.setAccess p a).requestLines = s.requestLines := rfl
@[simp] theorem State.setAccess_cycle (s : State) (p : Port) (a : AccessState) : (s.setAccess p a).cycle = s.cycle := rfl
@[simp] theorem State.setAccess_mem (s : State) (p : Port) (a : AccessState) : (s.setAccess p a).mem = s.mem := rfl
@[simp] theorem State.setAccess_loader (s : State) (p : Port) (a : AccessState) : (s.setAccess p a).loader = s.loader := rfl
@[simp] theorem State.setAccess_remembered (s : State) (p : Port) (a : AccessState) : (s.setAccess p a).remembered = s.remembered := rfl
@[simp] theorem State.setAccess_installedGen (s : State) (p : Port) (a : AccessState) : (s.setAccess p a).installedGen = s.installedGen := rfl
@[simp] theorem State.setAccess_lastResult (s : State) (p : Port) (a : AccessState) : (s.setAccess p a).lastResult = s.lastResult := rfl
@[simp] theorem State.setAccess_mirror (s : State) (p : Port) (a : AccessState) : (s.setAccess p a).mirror = s.mirror := rfl
@[simp] theorem State.setAccess_journals (s : State) (p : Port) (a : AccessState) : (s.setAccess p a).journals = s.journals := rfl
@[simp] theorem State.setAccess_attention (s : State) (p : Port) (a : AccessState) : (s.setAccess p a).attention = s.attention := rfl
@[simp] theorem State.setAccess_freeCtr (s : State) (p : Port) (a : AccessState) : (s.setAccess p a).freeCtr = s.freeCtr := rfl
@[simp] theorem State.setAccess_channel_at (s : State) (p : Port) (a : AccessState) (n' : Nat) : (s.setAccess p a).channel? n' = s.channel? n' := rfl
@[simp] theorem State.setAccess_group_at (s : State) (p : Port) (a : AccessState) (g' : Nat) : (s.setAccess p a).group? g' = s.group? g' := rfl
@[simp] theorem State.setAccess_members_of (s : State) (p : Port) (a : AccessState) (g' : Nat) : (s.setAccess p a).members g' = s.members g' := rfl

/-! ### State.modChannel -/

@[simp] theorem State.modChannel_pending (s : State) (n : Nat) (f : Channel → Channel) : (s.modChannel n f).pending = s.pending := rfl
@[simp] theorem State.modChannel_pins (s : State) (n : Nat) (f : Channel → Channel) : (s.modChannel n f).pins = s.pins := rfl
@[simp] theorem State.modChannel_partState (s : State) (n : Nat) (f : Channel → Channel) : (s.modChannel n f).partState = s.partState := rfl
@[simp] theorem State.modChannel_msz (s : State) (n : Nat) (f : Channel → Channel) : (s.modChannel n f).msz = s.msz := rfl
@[simp] theorem State.modChannel_configPort (s : State) (n : Nat) (f : Channel → Channel) : (s.modChannel n f).configPort = s.configPort := rfl
@[simp] theorem State.modChannel_ports (s : State) (n : Nat) (f : Channel → Channel) : (s.modChannel n f).ports = s.ports := rfl
@[simp] theorem State.modChannel_mapState (s : State) (n : Nat) (f : Channel → Channel) : (s.modChannel n f).mapState = s.mapState := rfl
@[simp] theorem State.modChannel_regions (s : State) (n : Nat) (f : Channel → Channel) : (s.modChannel n f).regions = s.regions := rfl
@[simp] theorem State.modChannel_groups (s : State) (n : Nat) (f : Channel → Channel) : (s.modChannel n f).groups = s.groups := rfl
@[simp] theorem State.modChannel_clock (s : State) (n : Nat) (f : Channel → Channel) : (s.modChannel n f).clock = s.clock := rfl
@[simp] theorem State.modChannel_divisor (s : State) (n : Nat) (f : Channel → Channel) : (s.modChannel n f).divisor = s.divisor := rfl
@[simp] theorem State.modChannel_prescaler (s : State) (n : Nat) (f : Channel → Channel) : (s.modChannel n f).prescaler = s.prescaler := rfl
@[simp] theorem State.modChannel_lastGranted (s : State) (n : Nat) (f : Channel → Channel) : (s.modChannel n f).lastGranted = s.lastGranted := rfl
@[simp] theorem State.modChannel_requestLines (s : State) (n : Nat) (f : Channel → Channel) : (s.modChannel n f).requestLines = s.requestLines := rfl
@[simp] theorem State.modChannel_cycle (s : State) (n : Nat) (f : Channel → Channel) : (s.modChannel n f).cycle = s.cycle := rfl
@[simp] theorem State.modChannel_mem (s : State) (n : Nat) (f : Channel → Channel) : (s.modChannel n f).mem = s.mem := rfl
@[simp] theorem State.modChannel_loader (s : State) (n : Nat) (f : Channel → Channel) : (s.modChannel n f).loader = s.loader := rfl
@[simp] theorem State.modChannel_remembered (s : State) (n : Nat) (f : Channel → Channel) : (s.modChannel n f).remembered = s.remembered := rfl
@[simp] theorem State.modChannel_installedGen (s : State) (n : Nat) (f : Channel → Channel) : (s.modChannel n f).installedGen = s.installedGen := rfl
@[simp] theorem State.modChannel_lastResult (s : State) (n : Nat) (f : Channel → Channel) : (s.modChannel n f).lastResult = s.lastResult := rfl
@[simp] theorem State.modChannel_mirror (s : State) (n : Nat) (f : Channel → Channel) : (s.modChannel n f).mirror = s.mirror := rfl
@[simp] theorem State.modChannel_journals (s : State) (n : Nat) (f : Channel → Channel) : (s.modChannel n f).journals = s.journals := rfl
@[simp] theorem State.modChannel_attention (s : State) (n : Nat) (f : Channel → Channel) : (s.modChannel n f).attention = s.attention := rfl
@[simp] theorem State.modChannel_freeCtr (s : State) (n : Nat) (f : Channel → Channel) : (s.modChannel n f).freeCtr = s.freeCtr := rfl
@[simp] theorem State.modChannel_group_at (s : State) (n : Nat) (f : Channel → Channel) (g' : Nat) : (s.modChannel n f).group? g' = s.group? g' := rfl
@[simp] theorem State.modChannel_access_of (s : State) (n : Nat) (f : Channel → Channel) (p' : Port) : (s.modChannel n f).access p' = s.access p' := rfl

/-! ### State.modGroup -/

@[simp] theorem State.modGroup_pending (s : State) (g : Nat) (f : Group → Group) : (s.modGroup g f).pending = s.pending := rfl
@[simp] theorem State.modGroup_pins (s : State) (g : Nat) (f : Group → Group) : (s.modGroup g f).pins = s.pins := rfl
@[simp] theorem State.modGroup_partState (s : State) (g : Nat) (f : Group → Group) : (s.modGroup g f).partState = s.partState := rfl
@[simp] theorem State.modGroup_msz (s : State) (g : Nat) (f : Group → Group) : (s.modGroup g f).msz = s.msz := rfl
@[simp] theorem State.modGroup_configPort (s : State) (g : Nat) (f : Group → Group) : (s.modGroup g f).configPort = s.configPort := rfl
@[simp] theorem State.modGroup_ports (s : State) (g : Nat) (f : Group → Group) : (s.modGroup g f).ports = s.ports := rfl
@[simp] theorem State.modGroup_mapState (s : State) (g : Nat) (f : Group → Group) : (s.modGroup g f).mapState = s.mapState := rfl
@[simp] theorem State.modGroup_regions (s : State) (g : Nat) (f : Group → Group) : (s.modGroup g f).regions = s.regions := rfl
@[simp] theorem State.modGroup_channels (s : State) (g : Nat) (f : Group → Group) : (s.modGroup g f).channels = s.channels := rfl
@[simp] theorem State.modGroup_clock (s : State) (g : Nat) (f : Group → Group) : (s.modGroup g f).clock = s.clock := rfl
@[simp] theorem State.modGroup_divisor (s : State) (g : Nat) (f : Group → Group) : (s.modGroup g f).divisor = s.divisor := rfl
@[simp] theorem State.modGroup_prescaler (s : State) (g : Nat) (f : Group → Group) : (s.modGroup g f).prescaler = s.prescaler := rfl
@[simp] theorem State.modGroup_lastGranted (s : State) (g : Nat) (f : Group → Group) : (s.modGroup g f).lastGranted = s.lastGranted := rfl
@[simp] theorem State.modGroup_requestLines (s : State) (g : Nat) (f : Group → Group) : (s.modGroup g f).requestLines = s.requestLines := rfl
@[simp] theorem State.modGroup_cycle (s : State) (g : Nat) (f : Group → Group) : (s.modGroup g f).cycle = s.cycle := rfl
@[simp] theorem State.modGroup_mem (s : State) (g : Nat) (f : Group → Group) : (s.modGroup g f).mem = s.mem := rfl
@[simp] theorem State.modGroup_loader (s : State) (g : Nat) (f : Group → Group) : (s.modGroup g f).loader = s.loader := rfl
@[simp] theorem State.modGroup_remembered (s : State) (g : Nat) (f : Group → Group) : (s.modGroup g f).remembered = s.remembered := rfl
@[simp] theorem State.modGroup_installedGen (s : State) (g : Nat) (f : Group → Group) : (s.modGroup g f).installedGen = s.installedGen := rfl
@[simp] theorem State.modGroup_lastResult (s : State) (g : Nat) (f : Group → Group) : (s.modGroup g f).lastResult = s.lastResult := rfl
@[simp] theorem State.modGroup_mirror (s : State) (g : Nat) (f : Group → Group) : (s.modGroup g f).mirror = s.mirror := rfl
@[simp] theorem State.modGroup_journals (s : State) (g : Nat) (f : Group → Group) : (s.modGroup g f).journals = s.journals := rfl
@[simp] theorem State.modGroup_attention (s : State) (g : Nat) (f : Group → Group) : (s.modGroup g f).attention = s.attention := rfl
@[simp] theorem State.modGroup_freeCtr (s : State) (g : Nat) (f : Group → Group) : (s.modGroup g f).freeCtr = s.freeCtr := rfl
@[simp] theorem State.modGroup_channel_at (s : State) (g : Nat) (f : Group → Group) (n' : Nat) : (s.modGroup g f).channel? n' = s.channel? n' := rfl
@[simp] theorem State.modGroup_access_of (s : State) (g : Nat) (f : Group → Group) (p' : Port) : (s.modGroup g f).access p' = s.access p' := rfl

/-! ### drivePort -/

@[simp] theorem drivePort_pending (p : Port) (d : Drive) (s : State) : (drivePort p d s).pending = s.pending := rfl
@[simp] theorem drivePort_pins (p : Port) (d : Drive) (s : State) : (drivePort p d s).pins = s.pins := rfl
@[simp] theorem drivePort_partState (p : Port) (d : Drive) (s : State) : (drivePort p d s).partState = s.partState := rfl
@[simp] theorem drivePort_msz (p : Port) (d : Drive) (s : State) : (drivePort p d s).msz = s.msz := rfl
@[simp] theorem drivePort_configPort (p : Port) (d : Drive) (s : State) : (drivePort p d s).configPort = s.configPort := rfl
@[simp] theorem drivePort_ports (p : Port) (d : Drive) (s : State) :
    (drivePort p d s).ports = (s.ports.modify p fun q => { q with req := true, inputs := d }) := rfl
@[simp] theorem drivePort_mapState (p : Port) (d : Drive) (s : State) : (drivePort p d s).mapState = s.mapState := rfl
@[simp] theorem drivePort_regions (p : Port) (d : Drive) (s : State) : (drivePort p d s).regions = s.regions := rfl
@[simp] theorem drivePort_channels (p : Port) (d : Drive) (s : State) : (drivePort p d s).channels = s.channels := rfl
@[simp] theorem drivePort_groups (p : Port) (d : Drive) (s : State) : (drivePort p d s).groups = s.groups := rfl
@[simp] theorem drivePort_clock (p : Port) (d : Drive) (s : State) : (drivePort p d s).clock = s.clock := rfl
@[simp] theorem drivePort_divisor (p : Port) (d : Drive) (s : State) : (drivePort p d s).divisor = s.divisor := rfl
@[simp] theorem drivePort_prescaler (p : Port) (d : Drive) (s : State) : (drivePort p d s).prescaler = s.prescaler := rfl
@[simp] theorem drivePort_lastGranted (p : Port) (d : Drive) (s : State) : (drivePort p d s).lastGranted = s.lastGranted := rfl
@[simp] theorem drivePort_requestLines (p : Port) (d : Drive) (s : State) : (drivePort p d s).requestLines = s.requestLines := rfl
@[simp] theorem drivePort_cycle (p : Port) (d : Drive) (s : State) : (drivePort p d s).cycle = s.cycle := rfl
@[simp] theorem drivePort_mem (p : Port) (d : Drive) (s : State) : (drivePort p d s).mem = s.mem := rfl
@[simp] theorem drivePort_loader (p : Port) (d : Drive) (s : State) : (drivePort p d s).loader = s.loader := rfl
@[simp] theorem drivePort_remembered (p : Port) (d : Drive) (s : State) : (drivePort p d s).remembered = s.remembered := rfl
@[simp] theorem drivePort_installedGen (p : Port) (d : Drive) (s : State) : (drivePort p d s).installedGen = s.installedGen := rfl
@[simp] theorem drivePort_lastResult (p : Port) (d : Drive) (s : State) : (drivePort p d s).lastResult = s.lastResult := rfl
@[simp] theorem drivePort_mirror (p : Port) (d : Drive) (s : State) : (drivePort p d s).mirror = s.mirror := rfl
@[simp] theorem drivePort_journals (p : Port) (d : Drive) (s : State) : (drivePort p d s).journals = s.journals := rfl
@[simp] theorem drivePort_attention (p : Port) (d : Drive) (s : State) : (drivePort p d s).attention = s.attention := rfl
@[simp] theorem drivePort_freeCtr (p : Port) (d : Drive) (s : State) : (drivePort p d s).freeCtr = s.freeCtr := rfl
@[simp] theorem drivePort_channel_at (p : Port) (d : Drive) (s : State) (n' : Nat) : (drivePort p d s).channel? n' = s.channel? n' := rfl
@[simp] theorem drivePort_group_at (p : Port) (d : Drive) (s : State) (g' : Nat) : (drivePort p d s).group? g' = s.group? g' := rfl
@[simp] theorem drivePort_members_of (p : Port) (d : Drive) (s : State) (g' : Nat) : (drivePort p d s).members g' = s.members g' := rfl

/-! ### grant -/

@[simp] theorem grant_pending (s : State) : (grant s).pending = s.pending := rfl
@[simp] theorem grant_pins (s : State) : (grant s).pins = s.pins := rfl
@[simp] theorem grant_partState (s : State) : (grant s).partState = s.partState := rfl
@[simp] theorem grant_msz (s : State) : (grant s).msz = s.msz := rfl
@[simp] theorem grant_configPort (s : State) : (grant s).configPort = s.configPort := rfl
@[simp] theorem grant_mapState (s : State) : (grant s).mapState = s.mapState := rfl
@[simp] theorem grant_regions (s : State) : (grant s).regions = s.regions := rfl
@[simp] theorem grant_channels (s : State) : (grant s).channels = s.channels := rfl
@[simp] theorem grant_groups (s : State) : (grant s).groups = s.groups := rfl
@[simp] theorem grant_clock (s : State) : (grant s).clock = s.clock := rfl
@[simp] theorem grant_divisor (s : State) : (grant s).divisor = s.divisor := rfl
@[simp] theorem grant_prescaler (s : State) : (grant s).prescaler = s.prescaler := rfl
@[simp] theorem grant_mem (s : State) : (grant s).mem = s.mem := rfl
@[simp] theorem grant_loader (s : State) : (grant s).loader = s.loader := rfl
@[simp] theorem grant_remembered (s : State) : (grant s).remembered = s.remembered := rfl
@[simp] theorem grant_installedGen (s : State) : (grant s).installedGen = s.installedGen := rfl
@[simp] theorem grant_lastResult (s : State) : (grant s).lastResult = s.lastResult := rfl
@[simp] theorem grant_journals (s : State) : (grant s).journals = s.journals := rfl
@[simp] theorem grant_channel_at (s : State) (n' : Nat) : (grant s).channel? n' = s.channel? n' := rfl
@[simp] theorem grant_group_at (s : State) (g' : Nat) : (grant s).group? g' = s.group? g' := rfl
@[simp] theorem grant_members_of (s : State) (g' : Nat) : (grant s).members g' = s.members g' := rfl

end Sys2Proof.Machine
end

