-- ==== Sys2Proof/Laws/Frames.lean ====
section
/-! SUPPORT. What each operation leaves alone. `OnlyExchange s t` and `OnlyAccess s t` say that only the named fields may
differ between `s` and `t`; every operation of the exchange unit, of a port access and of the Loader has one of them. -/
namespace Sys2Proof.Machine

/-- Between `s` and `t` only the runtime records, the journals, the attention states and the Mirror's marks may differ: all
that the exchange unit changes. -/
structure OnlyExchange (s t : State) : Prop where
  pending : t.pending = s.pending
  pins : t.pins = s.pins
  partState : t.partState = s.partState
  msz : t.msz = s.msz
  configPort : t.configPort = s.configPort
  ports : t.ports = s.ports
  mapState : t.mapState = s.mapState
  regions : t.regions = s.regions
  clock : t.clock = s.clock
  divisor : t.divisor = s.divisor
  prescaler : t.prescaler = s.prescaler
  lastGranted : t.lastGranted = s.lastGranted
  requestLines : t.requestLines = s.requestLines
  cycle : t.cycle = s.cycle
  mem : t.mem = s.mem
  loader : t.loader = s.loader
  remembered : t.remembered = s.remembered
  installedGen : t.installedGen = s.installedGen
  lastResult : t.lastResult = s.lastResult
  freeCtr : t.freeCtr = s.freeCtr

theorem OnlyExchange.refl (s : State) : OnlyExchange s s :=
  ⟨rfl, rfl, rfl, rfl, rfl, rfl, rfl, rfl, rfl, rfl, rfl, rfl, rfl, rfl, rfl, rfl, rfl, rfl, rfl, rfl⟩

theorem OnlyExchange.trans {s t u : State} (h : OnlyExchange s t) (k : OnlyExchange t u) : OnlyExchange s u :=
  ⟨k.pending.trans h.pending, k.pins.trans h.pins, k.partState.trans h.partState, k.msz.trans h.msz,
    k.configPort.trans h.configPort, k.ports.trans h.ports, k.mapState.trans h.mapState,
    k.regions.trans h.regions, k.clock.trans h.clock, k.divisor.trans h.divisor,
    k.prescaler.trans h.prescaler, k.lastGranted.trans h.lastGranted,
    k.requestLines.trans h.requestLines, k.cycle.trans h.cycle, k.mem.trans h.mem,
    k.loader.trans h.loader, k.remembered.trans h.remembered, k.installedGen.trans h.installedGen,
    k.lastResult.trans h.lastResult, k.freeCtr.trans h.freeCtr⟩

theorem OnlyExchange.mark {s t : State} (h : OnlyExchange s t) (i : MirrorItem) : OnlyExchange s (t.mark i) :=
  ⟨h.pending, h.pins, h.partState, h.msz, h.configPort, h.ports, h.mapState, h.regions, h.clock,
    h.divisor, h.prescaler, h.lastGranted, h.requestLines, h.cycle, h.mem, h.loader, h.remembered,
    h.installedGen, h.lastResult, h.freeCtr⟩

theorem OnlyExchange.raise {s t : State} (h : OnlyExchange s t) (p : Port) (c : Cause) : OnlyExchange s (t.raise p c) :=
  ⟨h.pending, h.pins, h.partState, h.msz, h.configPort, h.ports, h.mapState, h.regions, h.clock,
    h.divisor, h.prescaler, h.lastGranted, h.requestLines, h.cycle, h.mem, h.loader, h.remembered,
    h.installedGen, h.lastResult, h.freeCtr⟩

theorem OnlyExchange.raiseBoth {s t : State} (h : OnlyExchange s t) (c : Cause) : OnlyExchange s (t.raiseBoth c) :=
  ⟨h.pending, h.pins, h.partState, h.msz, h.configPort, h.ports, h.mapState, h.regions, h.clock,
    h.divisor, h.prescaler, h.lastGranted, h.requestLines, h.cycle, h.mem, h.loader, h.remembered,
    h.installedGen, h.lastResult, h.freeCtr⟩

theorem OnlyExchange.offer {s t : State} (h : OnlyExchange s t) (p : Port) (r : Record) : OnlyExchange s (t.offer p r) :=
  ⟨h.pending, h.pins, h.partState, h.msz, h.configPort, h.ports, h.mapState, h.regions, h.clock,
    h.divisor, h.prescaler, h.lastGranted, h.requestLines, h.cycle, h.mem, h.loader, h.remembered,
    h.installedGen, h.lastResult, h.freeCtr⟩

theorem OnlyExchange.offerBoth {s t : State} (h : OnlyExchange s t) (r : Record) : OnlyExchange s (t.offerBoth r) :=
  (h.offer .A r).offer .B r

theorem OnlyExchange.modChannel {s t : State} (h : OnlyExchange s t) (n : Nat) (f : Channel → Channel) : OnlyExchange s (t.modChannel n f) :=
  ⟨h.pending, h.pins, h.partState, h.msz, h.configPort, h.ports, h.mapState, h.regions, h.clock,
    h.divisor, h.prescaler, h.lastGranted, h.requestLines, h.cycle, h.mem, h.loader, h.remembered,
    h.installedGen, h.lastResult, h.freeCtr⟩

theorem OnlyExchange.modGroup {s t : State} (h : OnlyExchange s t) (g : Nat) (f : Group → Group) : OnlyExchange s (t.modGroup g f) :=
  ⟨h.pending, h.pins, h.partState, h.msz, h.configPort, h.ports, h.mapState, h.regions, h.clock,
    h.divisor, h.prescaler, h.lastGranted, h.requestLines, h.cycle, h.mem, h.loader, h.remembered,
    h.installedGen, h.lastResult, h.freeCtr⟩

theorem OnlyExchange.eq {s t : State} (h : OnlyExchange s t) :
    t = { s with
      channels := t.channels, groups := t.groups, journals := t.journals, attention := t.attention,
      mirror := t.mirror } := by
  obtain ⟨e0, e1, e2, e3, e4, e5, e6, e7, e8, e9, e10, e11, e12, e13, e14, e15, e16, e17, e18, e19⟩ := h
  cases s; cases t
  simp only at *
  simp only [e0, e1, e2, e3, e4, e5, e6, e7, e8, e9, e10, e11, e12, e13, e14, e15, e16, e17, e18, e19]

theorem OnlyExchange.foldl {β : Type} {s : State} (f : State → β → State) (hf : ∀ t b, OnlyExchange t (f t b)) :
    ∀ (bs : List β) {t : State}, OnlyExchange s t → OnlyExchange s (bs.foldl f t)
  | [], _, h => h
  | b :: bs, t, h => OnlyExchange.foldl f hf bs (h.trans (hf t b))

/-- Between `s` and `t` only what an access may change may differ: the exchange side, the port interfaces, the Loader's state
and result. -/
structure OnlyAccess (s t : State) : Prop where
  pending : t.pending = s.pending
  pins : t.pins = s.pins
  partState : t.partState = s.partState
  msz : t.msz = s.msz
  configPort : t.configPort = s.configPort
  mapState : t.mapState = s.mapState
  regions : t.regions = s.regions
  clock : t.clock = s.clock
  divisor : t.divisor = s.divisor
  prescaler : t.prescaler = s.prescaler
  lastGranted : t.lastGranted = s.lastGranted
  requestLines : t.requestLines = s.requestLines
  cycle : t.cycle = s.cycle
  mem : t.mem = s.mem
  installedGen : t.installedGen = s.installedGen
  freeCtr : t.freeCtr = s.freeCtr

theorem OnlyAccess.refl (s : State) : OnlyAccess s s :=
  ⟨rfl, rfl, rfl, rfl, rfl, rfl, rfl, rfl, rfl, rfl, rfl, rfl, rfl, rfl, rfl, rfl⟩

theorem OnlyAccess.trans {s t u : State} (h : OnlyAccess s t) (k : OnlyAccess t u) : OnlyAccess s u :=
  ⟨k.pending.trans h.pending, k.pins.trans h.pins, k.partState.trans h.partState, k.msz.trans h.msz,
    k.configPort.trans h.configPort, k.mapState.trans h.mapState, k.regions.trans h.regions,
    k.clock.trans h.clock, k.divisor.trans h.divisor, k.prescaler.trans h.prescaler,
    k.lastGranted.trans h.lastGranted, k.requestLines.trans h.requestLines, k.cycle.trans h.cycle,
    k.mem.trans h.mem, k.installedGen.trans h.installedGen, k.freeCtr.trans h.freeCtr⟩

theorem OnlyAccess.mark {s t : State} (h : OnlyAccess s t) (i : MirrorItem) : OnlyAccess s (t.mark i) :=
  ⟨h.pending, h.pins, h.partState, h.msz, h.configPort, h.mapState, h.regions, h.clock, h.divisor,
    h.prescaler, h.lastGranted, h.requestLines, h.cycle, h.mem, h.installedGen, h.freeCtr⟩

theorem OnlyAccess.raise {s t : State} (h : OnlyAccess s t) (p : Port) (c : Cause) : OnlyAccess s (t.raise p c) :=
  ⟨h.pending, h.pins, h.partState, h.msz, h.configPort, h.mapState, h.regions, h.clock, h.divisor,
    h.prescaler, h.lastGranted, h.requestLines, h.cycle, h.mem, h.installedGen, h.freeCtr⟩

theorem OnlyAccess.raiseBoth {s t : State} (h : OnlyAccess s t) (c : Cause) : OnlyAccess s (t.raiseBoth c) :=
  ⟨h.pending, h.pins, h.partState, h.msz, h.configPort, h.mapState, h.regions, h.clock, h.divisor,
    h.prescaler, h.lastGranted, h.requestLines, h.cycle, h.mem, h.installedGen, h.freeCtr⟩

theorem OnlyAccess.offer {s t : State} (h : OnlyAccess s t) (p : Port) (r : Record) : OnlyAccess s (t.offer p r) :=
  ⟨h.pending, h.pins, h.partState, h.msz, h.configPort, h.mapState, h.regions, h.clock, h.divisor,
    h.prescaler, h.lastGranted, h.requestLines, h.cycle, h.mem, h.installedGen, h.freeCtr⟩

theorem OnlyAccess.offerBoth {s t : State} (h : OnlyAccess s t) (r : Record) : OnlyAccess s (t.offerBoth r) :=
  (h.offer .A r).offer .B r

theorem OnlyAccess.modChannel {s t : State} (h : OnlyAccess s t) (n : Nat) (f : Channel → Channel) : OnlyAccess s (t.modChannel n f) :=
  ⟨h.pending, h.pins, h.partState, h.msz, h.configPort, h.mapState, h.regions, h.clock, h.divisor,
    h.prescaler, h.lastGranted, h.requestLines, h.cycle, h.mem, h.installedGen, h.freeCtr⟩

theorem OnlyAccess.modGroup {s t : State} (h : OnlyAccess s t) (g : Nat) (f : Group → Group) : OnlyAccess s (t.modGroup g f) :=
  ⟨h.pending, h.pins, h.partState, h.msz, h.configPort, h.mapState, h.regions, h.clock, h.divisor,
    h.prescaler, h.lastGranted, h.requestLines, h.cycle, h.mem, h.installedGen, h.freeCtr⟩

theorem OnlyAccess.setAccess {s t : State} (h : OnlyAccess s t) (p : Port) (a : AccessState) : OnlyAccess s (t.setAccess p a) :=
  ⟨h.pending, h.pins, h.partState, h.msz, h.configPort, h.mapState, h.regions, h.clock, h.divisor,
    h.prescaler, h.lastGranted, h.requestLines, h.cycle, h.mem, h.installedGen, h.freeCtr⟩

theorem OnlyAccess.drivePort {s t : State} (h : OnlyAccess s t) (p : Port) (d : Drive) : OnlyAccess s (Sys2Proof.Machine.drivePort p d t) :=
  ⟨h.pending, h.pins, h.partState, h.msz, h.configPort, h.mapState, h.regions, h.clock, h.divisor,
    h.prescaler, h.lastGranted, h.requestLines, h.cycle, h.mem, h.installedGen, h.freeCtr⟩

theorem OnlyAccess.eq {s t : State} (h : OnlyAccess s t) :
    t = { s with
      ports := t.ports, channels := t.channels, groups := t.groups, loader := t.loader,
      remembered := t.remembered, lastResult := t.lastResult, mirror := t.mirror, journals := t.journals,
      attention := t.attention } := by
  obtain ⟨e0, e1, e2, e3, e4, e5, e6, e7, e8, e9, e10, e11, e12, e13, e14, e15⟩ := h
  cases s; cases t
  simp only at *
  simp only [e0, e1, e2, e3, e4, e5, e6, e7, e8, e9, e10, e11, e12, e13, e14, e15]

theorem OnlyAccess.foldl {β : Type} {s : State} (f : State → β → State) (hf : ∀ t b, OnlyAccess t (f t b)) :
    ∀ (bs : List β) {t : State}, OnlyAccess s t → OnlyAccess s (bs.foldl f t)
  | [], _, h => h
  | b :: bs, t, h => OnlyAccess.foldl f hf bs (h.trans (hf t b))

theorem OnlyExchange.toAccess {s t : State} (h : OnlyExchange s t) : OnlyAccess s t :=
  ⟨h.pending, h.pins, h.partState, h.msz, h.configPort, h.mapState, h.regions, h.clock, h.divisor,
    h.prescaler, h.lastGranted, h.requestLines, h.cycle, h.mem, h.installedGen, h.freeCtr⟩

/-- Between `s` and `t` the queue, the pins, the sampled straps, the clock and memory are the same: what the part's own events
and the arbiter leave alone. -/
structure OnlyOwn (s t : State) : Prop where
  pending : t.pending = s.pending
  pins : t.pins = s.pins
  msz : t.msz = s.msz
  configPort : t.configPort = s.configPort
  clock : t.clock = s.clock
  mem : t.mem = s.mem

theorem OnlyOwn.refl (s : State) : OnlyOwn s s :=
  ⟨rfl, rfl, rfl, rfl, rfl, rfl⟩

theorem OnlyOwn.trans {s t u : State} (h : OnlyOwn s t) (k : OnlyOwn t u) : OnlyOwn s u :=
  ⟨k.pending.trans h.pending, k.pins.trans h.pins, k.msz.trans h.msz, k.configPort.trans h.configPort,
    k.clock.trans h.clock, k.mem.trans h.mem⟩

theorem OnlyOwn.eq {s t : State} (h : OnlyOwn s t) :
    t = { s with
      partState := t.partState, ports := t.ports, mapState := t.mapState, regions := t.regions,
      channels := t.channels, groups := t.groups, divisor := t.divisor, prescaler := t.prescaler,
      lastGranted := t.lastGranted, requestLines := t.requestLines, cycle := t.cycle, loader := t.loader,
      remembered := t.remembered, installedGen := t.installedGen, lastResult := t.lastResult,
      mirror := t.mirror, journals := t.journals, attention := t.attention, freeCtr := t.freeCtr } := by
  obtain ⟨e0, e1, e2, e3, e4, e5⟩ := h
  cases s; cases t
  simp only at *
  simp only [e0, e1, e2, e3, e4, e5]

theorem OnlyOwn.foldl {β : Type} {s : State} (f : State → β → State) (hf : ∀ t b, OnlyOwn t (f t b)) :
    ∀ (bs : List β) {t : State}, OnlyOwn s t → OnlyOwn s (bs.foldl f t)
  | [], _, h => h
  | b :: bs, t, h => OnlyOwn.foldl f hf bs (h.trans (hf t b))

theorem OnlyAccess.toOwn {s t : State} (h : OnlyAccess s t) : OnlyOwn s t :=
  ⟨h.pending, h.pins, h.msz, h.configPort, h.clock, h.mem⟩

/-! ### The operations of the exchange unit -/

theorem publish_only (n b : Nat) (q x : Word) (s : State) : OnlyExchange s (publish n b q x s) := by
  unfold publish
  split
  · exact .refl s
  · dsimp only
    split
    · exact (((OnlyExchange.refl s).modChannel _ _).mark _).offer _ _ |>.raise _ _
    · exact ((OnlyExchange.refl s).modChannel _ _).mark _

theorem publishPending_only (s : State) (n : Nat) : OnlyExchange s (publishPending s n) := by
  unfold publishPending
  split
  · exact publish_only _ _ _ _ _
  · exact .refl s

theorem publishMembers_only (g : Nat) (s : State) : OnlyExchange s (publishMembers g s) :=
  OnlyExchange.foldl _ publishPending_only _ (.refl s)

theorem startGather_only (g : Nat) (s : State) : OnlyExchange s (startGather g s) := by
  unfold startGather
  split
  · split
    · exact ((OnlyExchange.refl s).modGroup _ _).mark _
    · exact .refl s
  · exact .refl s

theorem endGather_only (g : Nat) (s : State) : OnlyExchange s (endGather g s) :=
  ((OnlyExchange.refl s).modGroup _ _).mark _

theorem completeGather_only (g : Nat) (s : State) : OnlyExchange s (completeGather g s) := by
  unfold completeGather
  split
  · exact (publishMembers_only g s).trans (endGather_only g _)
  · exact .refl s

theorem memberGained_only (g : Nat) (s : State) : OnlyExchange s (memberGained g s) := by
  unfold memberGained
  split
  · exact (startGather_only g s).trans (completeGather_only g _)
  · exact .refl s

theorem openPass_only (n : Nat) (s : State) : OnlyExchange s (openPass n s) := by
  unfold openPass
  split
  · split
    · exact ((OnlyExchange.refl s).modChannel _ _).mark _
    · exact .refl s
  · exact .refl s

theorem cancelFillDeadline_only (n : Nat) (s : State) : OnlyExchange s (cancelFillDeadline n s) :=
  (OnlyExchange.refl s).modChannel _ _

theorem haltChannel_only (n : Nat) (x : Port) (e : Bool) (p : FillPass) (s : State) :
    OnlyExchange s (haltChannel n x e p s) :=
  (((OnlyExchange.refl s).modChannel _ _).offer _ _).mark _

theorem closeShed_only (n : Nat) (c : Channel) (p : FillPass) (s : State) : OnlyExchange s (closeShed n c p s) := by
  unfold closeShed
  dsimp only
  have h := ((((OnlyExchange.refl s).modChannel n fun c => { c with pass := none }).mark (.chanBlock n)).offer
    c.desc.producer (mkRecord .shed n none 0 p.seq p.openTime s.clock)).raise c.desc.producer .fillFault
  split
  · exact h.trans (haltChannel_only _ _ _ _ _)
  · exact h

theorem supersede_only (n : Nat) (c : Channel) (s : State) : OnlyExchange s (supersede n c s) := by
  unfold supersede
  split
  · exact (OnlyExchange.refl s).offer _ _
  · exact .refl s

theorem closeIntoPending_only (n b : Nat) (c : Channel) (p : FillPass) (s : State) :
    OnlyExchange s (closeIntoPending n b c p s) := by
  unfold closeIntoPending
  have h := ((OnlyExchange.refl s).modChannel n fun c => { c with pass := none }).mark (.chanBlock n)
  exact ((h.trans (supersede_only n c _)).modChannel _ _).trans (memberGained_only _ _)

theorem closeIntoLive_only (n b : Nat) (p : FillPass) (s : State) : OnlyExchange s (closeIntoLive n b p s) :=
  (((OnlyExchange.refl s).modChannel n fun c => { c with pass := none }).mark (.chanBlock n)).trans
    (publish_only _ _ _ _ _)

theorem closePass_only (n : Nat) (q : Word) (s : State) : OnlyExchange s (closePass n q s) := by
  unfold closePass
  split
  · exact .refl s
  · split
    · exact .refl s
    · split
      · split
        · exact closeShed_only _ _ _ _
        · split
          · exact closeIntoLive_only _ _ _ _
          · exact closeIntoPending_only _ _ _ _ _
      · exact .refl s

theorem expirePass_only (n : Nat) (s : State) : OnlyExchange s (expirePass n s) := by
  unfold expirePass
  split
  · exact .refl s
  · split
    · exact .refl s
    · dsimp only
      have h := ((OnlyExchange.refl s).modChannel n fun c => { c with pass := none }).mark (.chanBlock n)
      split
      · exact ((h.offer _ _).raise _ _).trans (haltChannel_only _ _ _ _ _)
      · exact (h.offer _ _).raise _ _

theorem rearmOne_only (x : Port) (v : Word) (s : State) (n : Nat) : OnlyExchange s (rearmOne x v s n) := by
  unfold rearmOne
  split
  · split
    · exact ((OnlyExchange.refl s).modChannel _ _).mark _
    · exact .refl s
  · exact .refl s

theorem rearm_only (x : Port) (v : Word) (s : State) : OnlyExchange s (rearm x v s) :=
  OnlyExchange.foldl _ (rearmOne_only x v) _ (.refl s)

theorem takeProducerWrite_only (n off : Nat) (s : State) : OnlyExchange s (takeProducerWrite n off s).1 := by
  unfold takeProducerWrite
  dsimp only
  split
  · exact (openPass_only n s).trans (cancelFillDeadline_only n _)
  · exact openPass_only n s

theorem pinMember_only (s : State) (n : Nat) : OnlyExchange s (pinMember s n) := by
  unfold pinMember
  split
  · dsimp only
    split
    · exact (OnlyExchange.refl s).modChannel _ _
    · exact ((OnlyExchange.refl s).modChannel _ _).mark _
  · exact .refl s

theorem openPin_only (g : Nat) (s : State) : OnlyExchange s (openPin g s) := by
  unfold openPin
  split
  · split
    · exact OnlyExchange.foldl _ pinMember_only _ (((OnlyExchange.refl s).modGroup _ _).mark _)
    · exact .refl s
  · exact .refl s

theorem unpinMember_only (s : State) (n : Nat) : OnlyExchange s (unpinMember s n) := by
  unfold unpinMember
  split
  · split
    · exact ((OnlyExchange.refl s).modChannel _ _).mark _
    · exact .refl s
  · exact .refl s

theorem dropPin_only (g : Nat) (s : State) : OnlyExchange s (dropPin g s) :=
  (OnlyExchange.foldl _ unpinMember_only _ ((OnlyExchange.refl s).modGroup _ _)).mark _

theorem closePin_only (g : Nat) (s : State) : OnlyExchange s (closePin g s) := by
  unfold closePin
  split
  · exact .refl s
  · dsimp only
    split
    · exact ((dropPin_only g s).offer _ _).raise _ _
    · exact dropPin_only g s

theorem releasePin_only (g : Nat) (i : Bool) (s : State) : OnlyExchange s (releasePin g i s) := by
  unfold releasePin
  split
  · exact .refl s
  · exact ((dropPin_only g s).offer _ _).raise _ _

theorem taintPin_only (g : Nat) (s : State) : OnlyExchange s (taintPin g s) := by
  unfold taintPin
  split
  · exact .refl s
  · split
    · exact .refl s
    · exact ((OnlyExchange.refl s).modGroup _ _).mark _

theorem cancelHoldDeadline_only (g : Nat) (s : State) : OnlyExchange s (cancelHoldDeadline g s) :=
  (OnlyExchange.refl s).modGroup _ _

theorem takeConsumerRead_only (n off : Nat) (s : State) : OnlyExchange s (takeConsumerRead n off s).1 := by
  unfold takeConsumerRead
  split
  · exact .refl s
  · dsimp only
    split
    · exact (openPin_only _ s).trans (cancelHoldDeadline_only _ _)
    · exact openPin_only _ s

theorem exchangeCompletion_only (a : ChannelAccess) (w f : Bool) (s : State) :
    OnlyExchange s (exchangeCompletion a w f s) := by
  unfold exchangeCompletion
  split
  · split
    · split
      · exact closePass_only _ _ _
      · exact .refl s
    · exact .refl s
  · split
    · exact .refl s
    · dsimp only
      split
      · exact OnlyExchange.trans (by split; exacts [taintPin_only _ s, .refl s]) (closePin_only _ _)
      · split
        · exact taintPin_only _ s
        · exact .refl s

theorem becomeStale_only (n : Nat) (s : State) : OnlyExchange s (becomeStale n s) := by
  unfold becomeStale
  split
  · exact .refl s
  · exact (((OnlyExchange.refl s).modChannel _ _).mark _).offer _ _

theorem frameTick_only (g : Nat) (s : State) : OnlyExchange s (frameTick g s) :=
  ((publishMembers_only g s).modGroup _ _).mark _

theorem partialPublication_only (g : Nat) (s : State) : OnlyExchange s (partialPublication g s) := by
  unfold partialPublication
  split
  · exact .refl s
  · exact ((publishMembers_only g s).offer _ _).trans (endGather_only g _)

theorem abortPass_only (s : State) (n : Nat) : OnlyExchange s (abortPass s n) := by
  unfold abortPass
  split
  · exact .refl s
  · split
    · exact .refl s
    · exact (((OnlyExchange.refl s).modChannel _ _).mark _).offer _ _

theorem cancelGather_only (s : State) (g : Nat) : OnlyExchange s (cancelGather s g) := by
  unfold cancelGather
  split
  · exact endGather_only g s
  · exact .refl s

theorem endChannel_only (l : Load) (s0 s : State) (n : Nat) : OnlyExchange s (endChannel l s0 s n) := by
  unfold endChannel
  split
  · exact .refl s
  · split
    · exact .refl s
    · dsimp only
      split <;> split
      · exact ((OnlyExchange.refl s).offer _ _).offer _ _
      · exact (OnlyExchange.refl s).offer _ _
      · exact (OnlyExchange.refl s).offer _ _
      · exact .refl s

theorem dropMemberPending_only (l : Load) (s0 s : State) (n : Nat) : OnlyExchange s (dropMemberPending l s0 s n) := by
  unfold dropMemberPending
  split
  · exact .refl s
  · split
    · split
      · exact ((OnlyExchange.refl s).modChannel _ _).offer _ _
      · exact .refl s
    · exact .refl s

theorem endGroup_only (l : Load) (s0 s : State) (g : Nat) : OnlyExchange s (endGroup l s0 s g) := by
  unfold endGroup
  split
  · exact .refl s
  · split
    · exact .refl s
    · exact OnlyExchange.foldl _ (dropMemberPending_only l s0) _ (releasePin_only g true s)

theorem endOldSet_only (l : Load) (s : State) : OnlyExchange s (endOldSet l s) :=
  OnlyExchange.foldl _ (endGroup_only l s) _ (OnlyExchange.foldl _ (endChannel_only l s) _ (.refl s))

theorem settleChanBlock_only (l : Load) (s0 s : State) (n : Nat) : OnlyExchange s (settleChanBlock l s0 s n) := by
  have h : OnlyExchange s { s with mirror := s.mirror.unmark (.chanBlock n) } := {  OnlyExchange.refl s with  }
  unfold settleChanBlock
  dsimp only
  split <;> split
  · exact h.mark _
  · exact h
  · exact (OnlyExchange.refl s).mark _
  · exact .refl s

theorem settleGroupBlock_only (l : Load) (s0 s : State) (g : Nat) : OnlyExchange s (settleGroupBlock l s0 s g) := by
  have h : OnlyExchange s { s with mirror := s.mirror.unmark (.groupBlock g) } := {  OnlyExchange.refl s with  }
  unfold settleGroupBlock
  dsimp only
  split <;> split
  · exact h.mark _
  · exact h
  · exact (OnlyExchange.refl s).mark _
  · exact .refl s

theorem offerResumed_only (l : Load) (s0 s : State) (n : Nat) : OnlyExchange s (offerResumed l s0 s n) := by
  unfold offerResumed
  split
  · split
    · exact (OnlyExchange.refl s).offerBoth _
    · exact .refl s
  · exact .refl s

/-! ### Takes, completions, the Loader -/

theorem takeEnable_only (x : Port) (v : Word) (s : State) : OnlyAccess s (takeEnable x v s) :=
  ⟨rfl, rfl, rfl, rfl, rfl, rfl, rfl, rfl, rfl, rfl, rfl, rfl, rfl, rfl, rfl, rfl⟩

theorem takeAck_only (x : Port) (v : Word) (s : State) : OnlyAccess s (takeAck x v s) :=
  ⟨rfl, rfl, rfl, rfl, rfl, rfl, rfl, rfl, rfl, rfl, rfl, rfl, rfl, rfl, rfl, rfl⟩

theorem takeJread_only (x : Port) (v : Word) (s : State) : OnlyAccess s (takeJread x v s) := by
  unfold takeJread
  split
  · exact ⟨rfl, rfl, rfl, rfl, rfl, rfl, rfl, rfl, rfl, rfl, rfl, rfl, rfl, rfl, rfl, rfl⟩
  · exact ((OnlyAccess.refl s).raise _ _).mark _

theorem takeCommit_only (v : Word) (s : State) : OnlyAccess s (takeCommit v s) := by
  unfold takeCommit
  split
  · exact .refl s
  · split
    · exact ⟨rfl, rfl, rfl, rfl, rfl, rfl, rfl, rfl, rfl, rfl, rfl, rfl, rfl, rfl, rfl, rfl⟩
    · exact ⟨rfl, rfl, rfl, rfl, rfl, rfl, rfl, rfl, rfl, rfl, rfl, rfl, rfl, rfl, rfl, rfl⟩
    · exact .refl s

theorem handToOwner_only (t : Trigger) (v : Word) (s : State) : OnlyAccess s (handToOwner t v s) := by
  cases t
  · exact takeCommit_only v s
  · exact takeEnable_only _ v s
  · exact takeAck_only _ v s
  · exact takeJread_only _ v s
  · exact (rearm_only _ v s).toAccess

theorem violate_only (p : Port) (d : Drive) (k : ViolationKind) (x : Nat) (r : Option Nat) (s : State) :
    OnlyExchange s (violate p d k x r s) := ((OnlyExchange.refl s).offer _ _).raise _ _

theorem actOnTake_only (p : Port) (d : Drive) (x : Nat) (o : Decoded) (s : State) : OnlyAccess s (actOnTake p d x o s) := by
  unfold actOnTake
  split
  · exact handToOwner_only _ _ s
  · exact (violate_only _ _ _ _ _ s).toAccess
  · exact .refl s

theorem takeChannel_only (p : Port) (d : Drive) (n off : Nat) (s : State) :
    OnlyExchange s (takeChannel p d n off s).1 := by
  unfold takeChannel
  split
  · exact .refl s
  · split
    · split
      · exact takeProducerWrite_only n off s
      · exact .refl s
    · split
      · exact violate_only _ _ _ _ _ s
      · exact takeConsumerRead_only n off s

theorem decodeAndAct_only (p : Port) (d : Drive) (s : State) : OnlyAccess s (decodeAndAct p d s).1 := by
  unfold decodeAndAct
  split
  · exact actOnTake_only _ _ _ _ s
  · exact (takeChannel_only _ _ _ _ s).toAccess
  · exact actOnTake_only _ _ _ _ s
  · exact .refl s
  · exact .refl s
  · exact .refl s

theorem take_only (p : Port) (d : Drive) (s : State) : OnlyAccess s (take p d s) :=
  (decodeAndAct_only p d s).setAccess _ _

theorem arrive_only (p : Port) (d : Drive) (s : State) : OnlyAccess s (arrive p d s) := by
  unfold arrive
  split
  · exact (OnlyAccess.refl s).setAccess _ _
  · exact take_only p d s

theorem arriveIfRequested_only (p : Port) (s : State) : OnlyAccess s (arriveIfRequested p s) := by
  unfold arriveIfRequested
  split
  · exact arrive_only _ _ s
  · exact .refl s

theorem present_only (p : Port) (d : Drive) (s : State) : OnlyAccess s (present p d s) := by
  unfold present
  split
  · exact ((OnlyAccess.refl s).drivePort p d).trans (arriveIfRequested_only p _)
  · exact (OnlyAccess.refl s).drivePort p d

theorem takeHeldOf_only (p : Port) (s : State) : OnlyAccess s (takeHeldOf p s) := by
  unfold takeHeldOf
  split
  · exact take_only _ _ s
  · exact .refl s

theorem takeHeld_only (s : State) : OnlyAccess s (takeHeld s) :=
  (takeHeldOf_only .A s).trans (takeHeldOf_only .B _)

theorem dropReq_only (p : Port) (s : State) : OnlyAccess s (dropReq p s) := by
  unfold dropReq
  split
  · exact ⟨rfl, rfl, rfl, rfl, rfl, rfl, rfl, rfl, rfl, rfl, rfl, rfl, rfl, rfl, rfl, rfl⟩
  · exact .refl s

theorem noteReport_only (b : State) (p : Port) (s : State) : OnlyExchange s (noteReport b p s) := by
  unfold noteReport
  split
  · exact .refl s
  · exact (OnlyExchange.refl s).mark _

theorem noteReports_only (b s : State) : OnlyExchange s (noteReports b s) :=
  (noteReport_only b .A s).trans (noteReport_only b .B _)

theorem reportParity_only (p : Port) (t : Taken) (e : Lanes) (s : State) : OnlyExchange s (reportParity p t e s) := by
  unfold reportParity
  split
  · split
    · exact ((OnlyExchange.refl s).offer _ _).raise _ _
    · exact .refl s
  · exact .refl s

theorem exchangeStep_only (t : Taken) (e : Lanes) (s : State) : OnlyExchange s (exchangeStep t e s) := by
  unfold exchangeStep
  split
  · exact exchangeCompletion_only _ _ _ s
  · exact .refl s

theorem finishPort_only (p : Port) (t : Taken) (w : Word) (e : Lanes) (s : State) :
    OnlyAccess s (finishPort p t w e s) := by
  unfold finishPort
  split
  · exact ((OnlyAccess.refl s).setAccess _ _).trans (arriveIfRequested_only p _)
  · exact (OnlyAccess.refl s).setAccess _ _

theorem completionEffects_only (t : Taken) (p : Port) (e : Lanes) (s : State) : OnlyExchange s (completionEffects t p e s) :=
  (reportParity_only p t e s).trans (exchangeStep_only t e _)

theorem complete_only (p : Port) (t : Taken) (w : Word) (e : Lanes) (s : State) : OnlyAccess s (complete p t w e s) :=
  ((completionEffects_only t p e s).trans (noteReports_only s _)).toAccess.trans (finishPort_only p t w e _)

theorem completeCycleless_only (p : Port) (s : State) : OnlyAccess s (completeCycleless p s) := by
  unfold completeCycleless
  split
  · split
    · exact complete_only _ _ _ _ s
    · exact .refl s
  · exact .refl s

theorem reportLoadEnd_only (l : Load) (c : ResultCode) (d : Detail) (s : State) :
    OnlyAccess s (reportLoadEnd l c d s) := by
  have h : OnlyAccess s { s with lastResult := { gen := l.gen, code := c, detail := d } } := {  OnlyAccess.refl s with  }
  exact (((h.mark (.part 2)).mark (.part 3)).offerBoth _).raiseBoth _

theorem continueLoader_only (s : State) : OnlyAccess s (continueLoader s) := by
  unfold continueLoader
  split
  · exact ⟨rfl, rfl, rfl, rfl, rfl, rfl, rfl, rfl, rfl, rfl, rfl, rfl, rfl, rfl, rfl, rfl⟩
  · exact ⟨rfl, rfl, rfl, rfl, rfl, rfl, rfl, rfl, rfl, rfl, rfl, rfl, rfl, rfl, rfl, rfl⟩

theorem failLoad_only (l : Load) (c : ResultCode) (d : Detail) (s : State) : OnlyAccess s (failLoad l c d s) :=
  (reportLoadEnd_only l c d s).trans (continueLoader_only _)

theorem finishReading_only (l : Load) (s : State) : OnlyAccess s (finishReading l s) := by
  unfold finishReading
  split
  · exact failLoad_only _ _ _ s
  · exact ⟨rfl, rfl, rfl, rfl, rfl, rfl, rfl, rfl, rfl, rfl, rfl, rfl, rfl, rfl, rfl, rfl⟩

theorem tableReadDone_only (l : Load) (w : Word) (e : Lanes) (s : State) : OnlyAccess s (tableReadDone l w e s) := by
  unfold tableReadDone
  split
  · exact failLoad_only _ _ _ s
  · dsimp only
    split
    · exact ⟨rfl, rfl, rfl, rfl, rfl, rfl, rfl, rfl, rfl, rfl, rfl, rfl, rfl, rfl, rfl, rfl⟩
    · split
      · exact finishReading_only _ s
      · exact ⟨rfl, rfl, rfl, rfl, rfl, rfl, rfl, rfl, rfl, rfl, rfl, rfl, rfl, rfl, rfl, rfl⟩

theorem resumeReadDone_only (l : Load) (w : Word) (e : Lanes) (s : State) : OnlyAccess s (resumeReadDone l w e s) := by
  unfold resumeReadDone
  dsimp only
  split
  · exact ⟨rfl, rfl, rfl, rfl, rfl, rfl, rfl, rfl, rfl, rfl, rfl, rfl, rfl, rfl, rfl, rfl⟩
  · exact finishReading_only _ s

theorem loaderReadDone_only (w : Word) (e : Lanes) (s : State) : OnlyAccess s (loaderReadDone w e s) := by
  unfold loaderReadDone
  split
  · split
    · exact tableReadDone_only _ _ _ s
    · exact resumeReadDone_only _ _ _ s
  · exact .refl s

theorem abandonLoad_only (s : State) : OnlyAccess s (abandonLoad s) := by
  have h : OnlyAccess s ({ s with loader := .idle, remembered := none }.mark (.part 1)) := ⟨rfl, rfl, rfl, rfl, rfl, rfl, rfl, rfl, rfl, rfl, rfl, rfl, rfl, rfl, rfl, rfl⟩
  unfold abandonLoad
  split
  · exact .refl s
  · exact h.trans (reportLoadEnd_only _ _ _ _)
  · exact h.trans (reportLoadEnd_only _ _ _ _)

theorem itemCompleted_only (f : Flight) (s : State) : OnlyAccess s (itemCompleted f s) := by
  unfold itemCompleted
  split
  · exact ⟨rfl, rfl, rfl, rfl, rfl, rfl, rfl, rfl, rfl, rfl, rfl, rfl, rfl, rfl, rfl, rfl⟩
  · exact ⟨rfl, rfl, rfl, rfl, rfl, rfl, rfl, rfl, rfl, rfl, rfl, rfl, rfl, rfl, rfl, rfl⟩
  · exact ⟨rfl, rfl, rfl, rfl, rfl, rfl, rfl, rfl, rfl, rfl, rfl, rfl, rfl, rfl, rfl, rfl⟩
  · exact .refl s

theorem mirrorCycleDone_only (s : State) : OnlyAccess s (mirrorCycleDone s) := by
  unfold mirrorCycleDone
  split
  · rename_i f _
    split
    · exact .refl s
    · have h : OnlyAccess s { s with mirror := landFlight f s.mirror } := ⟨rfl, rfl, rfl, rfl, rfl, rfl, rfl, rfl, rfl, rfl, rfl, rfl, rfl, rfl, rfl, rfl⟩
      exact h.trans (itemCompleted_only f _)
  · exact .refl s

/-! ### Whole events -/

theorem pickFrom_mem {β : Type} {k : Nat} {xs : List β} {x : β} (h : pickFrom k xs = some x) : x ∈ xs := by
  unfold pickFrom at h
  split at h
  · cases h
  · simpa using h.symm
  · exact List.mem_of_getElem? h

theorem installLoad_only (l : Load) (s : State) : OnlyOwn s (installLoad l s) := by
  unfold installLoad
  dsimp only
  have h1 : OnlyOwn s (takeNewSet l s (endOldSet l s)) :=
    (endOldSet_only l s).toAccess.toOwn.trans ⟨rfl, rfl, rfl, rfl, rfl, rfl⟩
  refine h1.trans (OnlyAccess.toOwn ?_)
  refine (OnlyExchange.toAccess ?_).trans ((reportLoadEnd_only l .ok Detail.nothing _).trans
    (((OnlyAccess.refl _).mark (.part 4)).trans ((continueLoader_only _).trans (takeHeld_only _))))
  exact (OnlyExchange.foldl _ (settleChanBlock_only l s) _ (.refl _)).trans
    ((OnlyExchange.foldl _ (settleGroupBlock_only l s) _ (.refl _)).trans
      (OnlyExchange.foldl _ (offerResumed_only l s) _ (.refl _)))

theorem install_only (s : State) : OnlyOwn s (install s) := by
  unfold install
  split
  · split
    · exact installLoad_only _ s
    · exact .refl s
  · exact .refl s

theorem ownEvent_only (e : Instr) (s : State) : OnlyOwn s (ownEvent e s) := by
  unfold ownEvent
  split
  · exact install_only s
  · exact (expirePass_only _ s).toAccess.toOwn
  · exact (becomeStale_only _ s).toAccess.toOwn
  · exact (releasePin_only _ _ s).toAccess.toOwn
  · exact (partialPublication_only _ s).toAccess.toOwn
  · exact (frameTick_only _ s).toAccess.toOwn
  · exact .refl s

theorem grant_only (s : State) : OnlyOwn s (grant s) := ⟨rfl, rfl, rfl, rfl, rfl, rfl⟩

/-- An event without its grant changes what its effect changes, and the marks of the report words. -/
theorem ungranted_only (f : State → State) (s : State) : OnlyExchange (f s) (ungranted f s) := noteReports_only s (f s)

/-- An event changes what its effect changes; the marks of the report words and the grant touch nothing that the part's own
events may not. -/
theorem event_only (f : State → State) (s : State) : OnlyOwn (f s) (event f s) :=
  (ungranted_only f s).toAccess.toOwn.trans (grant_only _)

theorem settleFor_only (k : Nat) (s : State) : OnlyOwn s (settleFor k s) := by
  induction k generalizing s with
  | zero => exact .refl s
  | succ k ih =>
    unfold settleFor
    split
    · exact ((ownEvent_only _ s).trans (event_only (ownEvent _) s)).trans (ih _)
    · exact .refl s

theorem settle_only (s : State) : OnlyOwn s (settle s) := settleFor_only _ s

@[simp] theorem settle_pending (s : State) : (settle s).pending = s.pending := (settle_only s).pending
@[simp] theorem settle_mem (s : State) : (settle s).mem = s.mem := (settle_only s).mem
@[simp] theorem settle_pins (s : State) : (settle s).pins = s.pins := (settle_only s).pins
@[simp] theorem settle_clock (s : State) : (settle s).clock = s.clock := (settle_only s).clock

/-- An invariant of own events and of grants holds after what is due has been settled. -/
theorem settle_keeps (I : State → Prop) (h : ∀ e s, e ∈ dueEvents s → I s → I (event (ownEvent e) s)) (s : State) :
    I s → I (settle s) := by
  suffices ∀ k s, I s → I (settleFor k s) from this _ s
  intro k
  induction k with
  | zero => exact fun s hs => hs
  | succ k ih =>
    intro s hs
    unfold settleFor
    split
    · rename_i e he
      exact ih _ (h e s (pickFrom_mem he) hs)
    · exact hs

end Sys2Proof.Machine
end

