-- ==== Sys2Proof/Laws/Commands.lean ====
section
/-! SUPPORT. What a step can do, said once: every command is an effect from outside (that of a fall of PFAIL_N with or
without its grant), an event that is due, an edge of RST_N or nothing, and an invariant that these keep is kept by every step. -/
namespace Sys2Proof.Machine

/-! ### Reads of channels and groups -/

theorem State.channel?_lt {s : State} {n : Nat} {c : Channel} (h : s.channel? n = some c) : n < 24 := by
  unfold State.channel? at h
  by_contra hn
  rw [Vector.getElem?_eq_none (by omega)] at h
  cases h

theorem State.group?_lt {s : State} {g : Nat} {gr : Group} (h : s.group? g = some gr) : g < 24 := by
  unfold State.group? at h
  by_contra hn
  rw [Vector.getElem?_eq_none (by omega)] at h
  cases h

theorem State.region?_lt {s : State} {r : Nat} {g : Region} (h : s.region? r = some g) : r < 16 := by
  unfold State.region? at h
  by_contra hn
  rw [Vector.getElem?_eq_none (by omega)] at h
  cases h

theorem mem_indices {n : Nat} : n ∈ indices ↔ n < 24 := by simp [indices]

@[simp] theorem State.channel?_modChannel (s : State) (n m : Nat) (f : Channel → Channel) :
    (s.modChannel n f).channel? m = if m = n then (s.channel? n).map f else s.channel? m := by
  unfold State.modChannel State.channel?
  simp only [Vector.getElem?_setIfInBounds]
  by_cases h : n = m
  · subst h
    by_cases hn : n < 24
    · simp [hn]
    · simp [hn]
  · simp [h, Ne.symm h]

@[simp] theorem State.group?_modGroup (s : State) (n m : Nat) (f : Group → Group) :
    (s.modGroup n f).group? m = if m = n then (s.group? n).map f else s.group? m := by
  unfold State.modGroup State.group?
  simp only [Vector.getElem?_setIfInBounds]
  by_cases h : n = m
  · subst h
    by_cases hn : n < 24
    · simp [hn]
    · simp [hn]
  · simp [h, Ne.symm h]

@[simp] theorem State.access_setAccess (s : State) (p : Port) (a : AccessState) : (s.setAccess p a).access p = a := by
  simp [State.access]

theorem State.access_setAccess_other (s : State) {p q : Port} (h : q ≠ p) (a : AccessState) :
    (s.setAccess p a).access q = s.access q := by
  simp [State.access, Both.get_modify_of_ne _ h]

@[simp] theorem State.access_drivePort (s : State) (p q : Port) (d : Drive) : (drivePort p d s).access q = s.access q := by
  unfold State.access drivePort
  cases p <;> cases q <;> rfl

/-! ### What is due -/

theorem fillDue_lt {s : State} {n : Nat} (h : fillDue s n = true) : n < 24 := by
  unfold fillDue at h
  cases hc : s.channel? n with
  | none => simp [hc] at h
  | some c => exact State.channel?_lt hc

theorem freshDue_lt {s : State} {n : Nat} (h : freshDue s n = true) : n < 24 := by
  unfold freshDue at h
  cases hc : s.channel? n with
  | none => simp [hc] at h
  | some c => exact State.channel?_lt hc

theorem holdDue_lt {s : State} {g : Nat} (h : holdDue s g = true) : g < 24 := by
  unfold holdDue at h
  cases hc : s.group? g with
  | none => simp [hc] at h
  | some c => exact State.group?_lt hc

theorem gatherDue_lt {s : State} {g : Nat} (h : gatherDue s g = true) : g < 24 := by
  unfold gatherDue at h
  cases hc : s.group? g with
  | none => simp [hc] at h
  | some c => exact State.group?_lt hc

theorem frameDue_lt {s : State} {g : Nat} (h : frameDue s g = true) : g < 24 := by
  unfold frameDue at h
  cases hc : s.group? g with
  | none => simp [hc] at h
  | some c => exact State.group?_lt hc

/-- An event is due exactly when its own condition holds. -/
theorem mem_dueEvents {s : State} {e : Instr} : e ∈ dueEvents s ↔
    (e = .install ∧ installOwed s = true) ∨ (∃ n, e = .fillExpiry n ∧ fillDue s n = true) ∨
    (∃ n, e = .freshnessDeadlineReached n ∧ freshDue s n = true) ∨ (∃ g, e = .pinRelease g ∧ holdDue s g = true) ∨
    (∃ g, e = .partialPublication g ∧ gatherDue s g = true) ∨ (∃ g, e = .frameTick g ∧ frameDue s g = true) := by
  unfold dueEvents
  simp only [List.mem_append, List.mem_map, List.mem_filter, mem_indices]
  constructor
  · rintro (((((h | ⟨n, ⟨-, h⟩, rfl⟩) | ⟨n, ⟨-, h⟩, rfl⟩) | ⟨n, ⟨-, h⟩, rfl⟩) | ⟨n, ⟨-, h⟩, rfl⟩) | ⟨n, ⟨-, h⟩, rfl⟩)
    · split at h
      · rename_i hi
        simp only [List.mem_singleton] at h
        exact Or.inl ⟨h, hi⟩
      · cases h
    · exact Or.inr (Or.inl ⟨n, rfl, h⟩)
    · exact Or.inr (Or.inr (Or.inl ⟨n, rfl, h⟩))
    · exact Or.inr (Or.inr (Or.inr (Or.inl ⟨n, rfl, h⟩)))
    · exact Or.inr (Or.inr (Or.inr (Or.inr (Or.inl ⟨n, rfl, h⟩))))
    · exact Or.inr (Or.inr (Or.inr (Or.inr (Or.inr ⟨n, rfl, h⟩))))
  · rintro (⟨rfl, h⟩ | ⟨n, rfl, h⟩ | ⟨n, rfl, h⟩ | ⟨n, rfl, h⟩ | ⟨n, rfl, h⟩ | ⟨n, rfl, h⟩)
    · simp [h]
    · exact Or.inl (Or.inl (Or.inl (Or.inl (Or.inr ⟨n, ⟨fillDue_lt h, h⟩, rfl⟩))))
    · exact Or.inl (Or.inl (Or.inl (Or.inr ⟨n, ⟨freshDue_lt h, h⟩, rfl⟩)))
    · exact Or.inl (Or.inl (Or.inr ⟨n, ⟨holdDue_lt h, h⟩, rfl⟩))
    · exact Or.inl (Or.inr ⟨n, ⟨gatherDue_lt h, h⟩, rfl⟩)
    · exact Or.inr ⟨n, ⟨frameDue_lt h, h⟩, rfl⟩

/-! ### Commands -/

/-- The effect on the settled state of a command that comes from outside the part. -/
inductive Outside : Instr → (State → State) → Prop where
  | access {i : Instr} {p : Port} {d : Drive} (h : accessOf i = some (p, d)) : Outside i (present p d)
  | reqFall (p : Port) : Outside (.reqFall p) (dropReq p)
  | cycleEnd : Outside .memoryCycleEnd memoryCycleEnd
  | cycleless (p : Port) : Outside (.cyclelessCompletion p) (completeCycleless p)
  | tick : Outside .tick clockEdge
  | tclkEdge : Outside .tclkEdge clockEdge
  | holdover : Outside .holdoverStart powerFails

/-- R172: the fall of PFAIL_N makes the grant of its event unless the fall of RST_N stands next in the queue. -/
theorem exec_holdoverStart (s : State) : exec .holdoverStart s =
    .next (if s.pending.head? = some .resetAssert then ungranted powerFails (settle s) else event powerFails (settle s)) := by
  simp [exec, execHoldoverStart, resetFollows, outsideEvent]

/-- Every command is one of: an effect on the settled state, an event of the part's own where it is due, nothing, the fall of
RST_N, the rise of RST_N, the fall of PFAIL_N that comes together with that of RST_N. -/
theorem exec_cases (i : Instr) (s : State) :
    (∃ f, Outside i f ∧ exec i s = .next (event f (settle s))) ∨
    (i ∈ dueEvents s ∧ exec i s = .next (event (ownEvent i) s)) ∨
    (i ≠ .memoryCycleEnd ∧ i ≠ .resetAssert ∧ exec i s = .next s) ∨
    (i = .resetAssert ∧ exec i s = .next (resetFalls (settle s))) ∨
    (∃ m c f, i = .resetRelease m c f ∧ s.pins.rstN = false ∧ exec i s = .next (event (leaveReset m c f) s)) ∨
    (i = .holdoverStart ∧ s.pending.head? = some .resetAssert ∧ exec i s = .next (ungranted powerFails (settle s))) := by
  cases i
  case accessArrivalHeld p d => exact Or.inl ⟨_, .access rfl, rfl⟩
  case portAccessTake p d => exact Or.inl ⟨_, .access rfl, rfl⟩
  case producerWrite p a l v => exact Or.inl ⟨_, .access rfl, rfl⟩
  case producerRead p a => exact Or.inl ⟨_, .access rfl, rfl⟩
  case consumerRead p a => exact Or.inl ⟨_, .access rfl, rfl⟩
  case commitRequest p v => exact Or.inl ⟨_, .access rfl, rfl⟩
  case enableTake p v => exact Or.inl ⟨_, .access rfl, rfl⟩
  case ackTake p v => exact Or.inl ⟨_, .access rfl, rfl⟩
  case jreadTake p v => exact Or.inl ⟨_, .access rfl, rfl⟩
  case rearmTake p v => exact Or.inl ⟨_, .access rfl, rfl⟩
  case reqFall p => exact Or.inl ⟨_, .reqFall p, rfl⟩
  case memoryCycleEnd => exact Or.inl ⟨_, .cycleEnd, rfl⟩
  case cyclelessCompletion p => exact Or.inl ⟨_, .cycleless p, rfl⟩
  case tick => exact Or.inl ⟨_, .tick, rfl⟩
  case tclkEdge => exact Or.inl ⟨_, .tclkEdge, rfl⟩
  case holdoverStart =>
    rw [exec_holdoverStart]
    split
    · rename_i h; exact Or.inr (Or.inr (Or.inr (Or.inr (Or.inr ⟨rfl, h, rfl⟩))))
    · exact Or.inl ⟨_, .holdover, rfl⟩
  case resetAssert => exact Or.inr (Or.inr (Or.inr (Or.inl ⟨rfl, rfl⟩)))
  case resetRelease m c f =>
    unfold exec execResetRelease
    cases h : s.pins.rstN
    · exact Or.inr (Or.inr (Or.inr (Or.inr (Or.inl ⟨m, c, f, rfl, rfl, by simp⟩))))
    · exact Or.inr (Or.inr (Or.inl ⟨by simp, by simp, by simp⟩))
  case install =>
    by_cases h : installOwed s = true
    · exact Or.inr (Or.inl ⟨mem_dueEvents.2 (Or.inl ⟨rfl, h⟩), congrArg Host.Outcome.next (if_pos h)⟩)
    · exact Or.inr (Or.inr (Or.inl ⟨by simp, by simp, congrArg Host.Outcome.next (if_neg h)⟩))
  case fillExpiry n =>
    by_cases h : fillDue s n = true
    · exact Or.inr (Or.inl ⟨mem_dueEvents.2 (Or.inr (Or.inl ⟨n, rfl, h⟩)), congrArg Host.Outcome.next (if_pos h)⟩)
    · exact Or.inr (Or.inr (Or.inl ⟨by simp, by simp, congrArg Host.Outcome.next (if_neg h)⟩))
  case freshnessDeadlineReached n =>
    by_cases h : freshDue s n = true
    · exact Or.inr (Or.inl ⟨mem_dueEvents.2 (Or.inr (Or.inr (Or.inl ⟨n, rfl, h⟩))), congrArg Host.Outcome.next (if_pos h)⟩)
    · exact Or.inr (Or.inr (Or.inl ⟨by simp, by simp, congrArg Host.Outcome.next (if_neg h)⟩))
  case pinRelease g =>
    by_cases h : holdDue s g = true
    · exact Or.inr (Or.inl ⟨mem_dueEvents.2 (Or.inr (Or.inr (Or.inr (Or.inl ⟨g, rfl, h⟩)))), congrArg Host.Outcome.next (if_pos h)⟩)
    · exact Or.inr (Or.inr (Or.inl ⟨by simp, by simp, congrArg Host.Outcome.next (if_neg h)⟩))
  case partialPublication g =>
    by_cases h : gatherDue s g = true
    · exact Or.inr (Or.inl ⟨mem_dueEvents.2 (Or.inr (Or.inr (Or.inr (Or.inr (Or.inl ⟨g, rfl, h⟩))))), congrArg Host.Outcome.next (if_pos h)⟩)
    · exact Or.inr (Or.inr (Or.inl ⟨by simp, by simp, congrArg Host.Outcome.next (if_neg h)⟩))
  case frameTick g =>
    by_cases h : frameDue s g = true
    · exact Or.inr (Or.inl ⟨mem_dueEvents.2 (Or.inr (Or.inr (Or.inr (Or.inr (Or.inr ⟨g, rfl, h⟩))))), congrArg Host.Outcome.next (if_pos h)⟩)
    · exact Or.inr (Or.inr (Or.inl ⟨by simp, by simp, congrArg Host.Outcome.next (if_neg h)⟩))

/-- An invariant that own events, the effects from outside (that of a fall of PFAIL_N with and without its grant), and the two edges of RST_N keep is kept by every step. -/
theorem step_keeps (I : State → Prop)
    (hqueue : ∀ s q, I s → I { s with pending := q })
    (hown : ∀ e s, e ∈ dueEvents s → I s → I (event (ownEvent e) s))
    (hpresent : ∀ p d s, I s → I (event (present p d) s))
    (hdrop : ∀ p s, I s → I (event (dropReq p) s))
    (hend : ∀ s, I s → I (event memoryCycleEnd s))
    (hcycleless : ∀ p s, I s → I (event (completeCycleless p) s))
    (hclock : ∀ s, I s → I (event clockEdge s))
    (hpower : ∀ s, I s → I (event powerFails s))
    (hpowerTogether : ∀ s, I s → I (ungranted powerFails s))
    (hfall : ∀ s, I s → I (resetFalls s))
    (hrise : ∀ m c f s, s.pins.rstN = false → I s → I (event (leaveReset m c f) s))
    {s t : State} (hs : I s) (h : step s = .next t) : I t := by
  unfold step at h
  split at h
  · cases h; exact hs
  · rename_i i rest _
    have hs' := hqueue s rest hs
    generalize ({ s with pending := rest } : State) = u at h hs'
    have hset := settle_keeps I hown u hs'
    rcases exec_cases i u with ⟨f, hf, e⟩ | ⟨hd, e⟩ | ⟨-, -, e⟩ | ⟨rfl, e⟩ | ⟨m, c, f, rfl, hr, e⟩ |
      ⟨-, -, e⟩ <;>
      rw [e] at h <;> cases h
    · cases hf
      · exact hpresent _ _ _ hset
      · exact hdrop _ _ hset
      · exact hend _ hset
      · exact hcycleless _ _ hset
      · exact hclock _ hset
      · exact hclock _ hset
      · exact hpower _ hset
    · exact hown _ _ hd hs'
    · exact hs'
    · exact hfall _ hset
    · exact hrise _ _ _ _ hr hs'
    · exact hpowerTogether _ hset

/-- Every command answers a next state. -/
theorem exec_next (i : Instr) (s : State) : ∃ t, exec i s = .next t := by
  rcases exec_cases i s with ⟨f, _, e⟩ | ⟨_, e⟩ | ⟨_, _, e⟩ | ⟨_, e⟩ | ⟨m, c, f, _, _, e⟩ | ⟨_, _, e⟩ <;>
    exact ⟨_, e⟩

end Sys2Proof.Machine
end

