-- ==== Sys2Proof/Laws/Marks.lean ====
section
/-! SUPPORT. What the shared operations mark (R132), and how offers and raises of one event add up: each operation's marks
are said once, as the list of the items it marks. -/
namespace Sys2Proof.Machine

/-! ### One mark -/

@[simp] theorem mem_insertItem {i j : MirrorItem} {l : List MirrorItem} : j ∈ insertItem i l ↔ j = i ∨ j ∈ l := by
  induction l with
  | nil => simp [insertItem]
  | cons k rest ih =>
    unfold insertItem
    split
    · rename_i h; subst h; simp
    · split
      · simp
      · simp only [List.mem_cons, ih]; tauto

/-- Marks depend on the Mirror alone. -/
theorem marked_of_mirror {s t : State} (h : t.mirror = s.mirror) (i : MirrorItem) : Marked t i ↔ Marked s i := by
  unfold Marked; rw [h]

@[simp] theorem marked_mark {s : State} {i j : MirrorItem} : Marked (s.mark i) j ↔ Marked s j ∨ j = i := by
  unfold Marked State.mark Mirror.mark
  cases hf : s.mirror.flight with
  | none => simp; tauto
  | some f =>
    by_cases h : f.item = i
    · subst h
      simp only [↓reduceIte, Option.some.injEq, exists_eq_left', and_true]
      constructor
      · rintro (h | h)
        · exact Or.inl (Or.inl h)
        · exact Or.inr h.symm
      · rintro ((h | ⟨h, _⟩) | h)
        · exact Or.inl h
        · exact Or.inr h
        · exact Or.inr h.symm
    · simp only [h, ↓reduceIte, mem_insertItem, Option.some.injEq, exists_eq_left']
      tauto

theorem marked_markAll {s : State} {is : List MirrorItem} {j : MirrorItem} :
    Marked (s.markAll is) j ↔ Marked s j ∨ j ∈ is := by
  unfold State.markAll
  induction is generalizing s with
  | nil => simp
  | cons i rest ih => rw [List.foldl_cons, ih, marked_mark, List.mem_cons]; tauto

/-! ### Lists of marks -/

theorem SequencesKept.of_mirror {s t : State} (h : t.mirror = s.mirror) : SequencesKept s t := by
  unfold SequencesKept; rw [h]; exact ⟨rfl, rfl, rfl⟩

theorem SequencesKept.trans {s t u : State} (h : SequencesKept s t) (k : SequencesKept t u) : SequencesKept s u :=
  ⟨k.1.trans h.1, k.2.1.trans h.2.1, k.2.2.trans h.2.2⟩

/-- R132: a mark keeps the item in flight, its content and its cycles. -/
theorem sequencesKept_mark (s : State) (i : MirrorItem) : SequencesKept s (s.mark i) := by
  unfold SequencesKept State.mark Mirror.mark
  cases s.mirror.flight with
  | none => exact ⟨rfl, rfl, by simp⟩
  | some f => by_cases h : f.item = i <;> simp [h]

theorem sequencesKept_markAll (s : State) (is : List MirrorItem) : SequencesKept s (s.markAll is) := by
  unfold State.markAll
  induction is generalizing s with
  | nil => exact SequencesKept.of_mirror rfl
  | cons i rest ih => rw [List.foldl_cons]; exact (sequencesKept_mark s i).trans (ih _)

/-- R126: a block that ends keeps the sequence that is being written. -/
theorem sequencesKept_unmark (s : State) (i : MirrorItem) : SequencesKept s { s with mirror := s.mirror.unmark i } := by
  unfold SequencesKept Mirror.unmark
  refine ⟨rfl, rfl, ?_⟩
  cases s.mirror.flight with
  | none => rfl
  | some f => by_cases h : f.item = i <;> simp [h]

theorem Marks.refl (s : State) : Marks s s [] := ⟨fun i => by simp, SequencesKept.of_mirror rfl⟩

theorem Marks.of_mirror {s t : State} (h : t.mirror = s.mirror) : Marks s t [] :=
  ⟨fun i => by rw [marked_of_mirror h]; simp, SequencesKept.of_mirror h⟩

theorem Marks.trans {s t u : State} {is js : List MirrorItem} (h : Marks s t is) (k : Marks t u js) :
    Marks s u (is ++ js) := ⟨fun i => by rw [k.1 i, h.1 i, List.mem_append]; tauto, h.2.trans k.2⟩

/-- Two lists with the same members say the same. -/
theorem Marks.congr {s t : State} {is js : List MirrorItem} (h : Marks s t is) (k : ∀ i, i ∈ is ↔ i ∈ js) : Marks s t js :=
  ⟨fun i => by rw [h.1 i, k i], h.2⟩

theorem marks_mark (s : State) (i : MirrorItem) : Marks s (s.mark i) [i] :=
  ⟨fun j => by rw [marked_mark]; simp, sequencesKept_mark s i⟩

theorem marks_markAll (s : State) (is : List MirrorItem) : Marks s (s.markAll is) is :=
  ⟨fun _ => marked_markAll, sequencesKept_markAll s is⟩

theorem marks_modChannel (s : State) (n : Nat) (f : Channel → Channel) : Marks s (s.modChannel n f) [] := Marks.of_mirror rfl

theorem marks_modGroup (s : State) (g : Nat) (f : Group → Group) : Marks s (s.modGroup g f) [] := Marks.of_mirror rfl

theorem marks_raise (s : State) (p : Port) (c : Cause) : Marks s (s.raise p c) [] := Marks.of_mirror rfl

theorem marks_setAccess (s : State) (p : Port) (a : AccessState) : Marks s (s.setAccess p a) [] := Marks.of_mirror rfl

/-! ### Offers and raises -/

theorem marks_offer (s : State) (p : Port) (r : Record) :
    Marks s (s.offer p r) (offerMarks p (s.journals.get p) ((s.journals.get p).offer r s.clock)) :=
  (marks_markAll s _).trans (Marks.of_mirror (s := s.markAll (offerMarks p (s.journals.get p)
    ((s.journals.get p).offer r s.clock))) rfl) |>.congr (by simp)

@[simp] theorem offer_journal (s : State) (p : Port) (r : Record) :
    (s.offer p r).journals.get p = (s.journals.get p).offer r s.clock := by simp [State.offer]

theorem offer_journal_of_ne (s : State) {p q : Port} (h : q ≠ p) (r : Record) :
    (s.offer p r).journals.get q = s.journals.get q := by
  simp [State.offer, Both.get_set_of_ne _ h]

/-- An offer's effect on the attention state of its own port. -/
theorem offer_latched (s : State) (p : Port) (r : Record) : ((s.offer p r).attention.get p).latched =
    (s.attention.get p).latched |||
      causeIf .journalLost (lossBegins (s.journals.get p) ((s.journals.get p).offer r s.clock)) := by
  simp only [State.offer]
  split
  · rename_i h; simp [State.raise, causeIf, h]
  · rename_i h; simp [causeIf, h]

theorem offer_attention_of_ne (s : State) {p q : Port} (h : q ≠ p) (r : Record) :
    (s.offer p r).attention.get q = s.attention.get q := by
  simp only [State.offer]
  split
  · simp [State.raise, Both.get_modify_of_ne _ h]
  · rfl

@[simp] theorem raise_latched (s : State) (p : Port) (c : Cause) :
    ((s.raise p c).attention.get p).latched = (s.attention.get p).latched ||| c.bit := by simp [State.raise]

theorem raise_attention_of_ne (s : State) {p q : Port} (h : q ≠ p) (c : Cause) :
    (s.raise p c).attention.get q = s.attention.get q := by simp [State.raise, Both.get_modify_of_ne _ h]

theorem offers_nil (now : Word) (j : Journal) : offers now j [] = j := rfl

theorem offers_cons (now : Word) (j : Journal) (r : Record) (rs : List Record) :
    offers now j (r :: rs) = offers now (j.offer r now) rs := rfl

theorem offers_append (now : Word) (j : Journal) (rs qs : List Record) :
    offers now j (rs ++ qs) = offers now (offers now j rs) qs := by simp [offers]

theorem offersLose_append (now : Word) (j : Journal) (rs qs : List Record) :
    offersLose now j (rs ++ qs) = (offersLose now j rs || offersLose now (offers now j rs) qs) := by
  induction rs generalizing j with
  | nil => simp [offersLose, offers]
  | cons r rest ih => simp [offersLose, offers_cons, ih, Bool.or_assoc]

theorem offersMark_append (now : Word) (p : Port) (j : Journal) (rs qs : List Record) :
    offersMark now p j (rs ++ qs) = offersMark now p j rs ++ offersMark now p (offers now j rs) qs := by
  induction rs generalizing j with
  | nil => simp [offersMark, offers]
  | cons r rest ih => simp [offersMark, offers_cons, ih]

/-! ### Report words (R157) -/

@[simp] theorem pendingSet_mark (s : State) (i : MirrorItem) (p : Port) : pendingSet (s.mark i) p = pendingSet s p := rfl

theorem marked_noteReport {b s : State} {p : Port} {j : MirrorItem} :
    Marked (noteReport b p s) j ↔ Marked s j ∨ (pendingSet s p ≠ pendingSet b p ∧ j = .report p) := by
  unfold noteReport
  split
  · rename_i h; simp [h]
  · rename_i h; simp [h]

@[simp] theorem pendingSet_noteReport (b s : State) (p q : Port) : pendingSet (noteReport b p s) q = pendingSet s q := by
  unfold noteReport; split <;> rfl

theorem sequencesKept_noteReport (b : State) (p : Port) (s : State) : SequencesKept s (noteReport b p s) := by
  unfold noteReport
  split
  · exact SequencesKept.of_mirror rfl
  · exact sequencesKept_mark s _

/-- R157: exactly the report words of the ports whose pending sets differ are marked. -/
theorem marks_noteReports (b s : State) : Marks s (noteReports b s) (changedReports b s) := by
  refine ⟨fun j => ?_, (sequencesKept_noteReport b .A s).trans (sequencesKept_noteReport b .B _)⟩
  unfold noteReports changedReports
  rw [marked_noteReport, marked_noteReport, pendingSet_noteReport]
  simp only [List.mem_map, List.mem_filter, List.mem_cons, List.not_mem_nil, or_false, bne_iff_ne, ne_eq]
  constructor
  · rintro ((h | ⟨h, rfl⟩) | ⟨h, rfl⟩)
    · exact Or.inl h
    · exact Or.inr ⟨.A, ⟨Or.inl rfl, h⟩, rfl⟩
    · exact Or.inr ⟨.B, ⟨Or.inr rfl, h⟩, rfl⟩
  · rintro (h | ⟨p, ⟨rfl | rfl, h⟩, rfl⟩)
    · exact Or.inl (Or.inl h)
    · exact Or.inl (Or.inr ⟨h, rfl⟩)
    · exact Or.inr ⟨h, rfl⟩

/-- The changed reports are those of the final state: marking them changes no pending set. -/
theorem changedReports_noteReports (b s : State) : changedReports b (noteReports b s) = changedReports b s := by
  unfold changedReports noteReports
  simp only [pendingSet_noteReport]

/-- Where no pending set has changed, `noteReports` does nothing. -/
theorem noteReports_of_same {b s : State} (h : ∀ p, pendingSet s p = pendingSet b p) : noteReports b s = s := by
  simp [noteReports, noteReport, h]

/-- A pending set depends on these fields alone. -/
theorem pendingSet_congr {s t : State} {p : Port} (h1 : (t.attention.get p).latched = (s.attention.get p).latched)
    (h2 : t.partState = s.partState) (h3 : ∀ n, t.channel? n = s.channel? n)
    (h4 : (t.journals.get p).h = (s.journals.get p).h ∧ (t.journals.get p).rd = (s.journals.get p).rd) :
    pendingSet t p = pendingSet s p := by
  simp only [pendingSet, levelSet, anyHalted, anyStale, journalHolds, h1, h2, h3, h4.1, h4.2]

/-- An offer moves neither H, C nor Rd. -/
theorem offer_indices (j : Journal) (r : Record) (now : Word) :
    (j.offer r now).h = j.h ∧ (j.offer r now).c = j.c ∧ (j.offer r now).rd = j.rd := by
  unfold Journal.offer Journal.put
  split
  · split <;> exact ⟨rfl, rfl, rfl⟩
  · split
    · exact ⟨rfl, rfl, rfl⟩
    · split <;> exact ⟨rfl, rfl, rfl⟩

end Sys2Proof.Machine
end

