-- ==== Sys2Proof/Laws/Completion.lean ====
section
/-! SUPPORT. What the completion of an access that closes nothing is (R10, R93, R94), and that the start of a Mirror item
keeps the order of starts free of circles (R133). -/
namespace Sys2Proof.Machine

/-! ### Completions -/

theorem noteReports_self (s : State) : noteReports s s = s := noteReports_of_same fun _ => rfl

/-- R103: a read without a lane in error reports nothing. -/
theorem reportParity_zero (p : Port) (t : Taken) (s : State) : reportParity p t 0 s = s := by
  unfold reportParity
  cases t.outcome.phys? <;> simp

/-- R10: the exchange unit does nothing at a completion that closes nothing and reads no lane in error. -/
theorem exchangeStep_of_closesNothing {t : Taken} {s : State} (h : ClosesNothing s t) : exchangeStep t 0 s = s := by
  unfold exchangeStep
  cases ho : t.outcome with
  | channel a =>
    simp only [bne_self_eq_false]
    unfold exchangeCompletion
    cases hs : a.side with
    | producer =>
      by_cases hc : (t.drive.wr && a.closing) = true
      · simp only [hc, ↓reduceIte]
        rw [Bool.and_eq_true] at hc
        cases hq : a.passSeq with
        | none => rfl
        | some seq =>
          simp only
          unfold closePass
          cases hch : s.channel? a.ch with
          | none => rfl
          | some c =>
            have hh := h a c ho hc.2 hch
            rw [hs] at hh
            simp only
            cases hp : c.pass with
            | none => rfl
            | some f =>
              have hne := hh hc.1 f hp
              rw [hq] at hne
              have hne' : f.seq ≠ seq := fun e => hne (by rw [e])
              simp [hne']
      · simp [hc]
    | consumer =>
      cases hch : s.channel? a.ch with
      | none => rfl
      | some c =>
        by_cases hc : a.closing = true
        · simp only [hc, Bool.false_eq_true, ↓reduceIte]
          have hh := h a c ho hc hch
          rw [hs] at hh
          unfold closePin
          cases hg : s.group? c.desc.group with
          | none => rfl
          | some gr => simp [hh gr hg]
        · simp [hc]
  | _ => rfl

/-- R93, R10: a completion that closes nothing and reads no lane in error has no effect but on its port. -/
theorem complete_of_closesNothing {t : Taken} {s : State} (p : Port) (w : Word) (h : ClosesNothing s t) :
    complete p t w 0 s = finishPort p t w 0 s := by
  unfold complete completionEffects
  rw [reportParity_zero, exchangeStep_of_closesNothing h, noteReports_self]

/-- R93, R94: where no arrival follows, the port goes where the access has ended. -/
theorem finishPort_of_noNewArrival {t : Taken} {s : State} {p : Port} (w : Word) (e : Lanes) (h : NoNewArrival s p t) :
    finishPort p t w e s = s.setAccess p (t.ended w (t.err || (e != 0 && (s.ports.get p).faultSignal))) := by
  unfold finishPort Taken.ended
  cases ht : t.withdrawn with
  | false => rfl
  | true =>
    simp only [↓reduceIte]
    unfold arriveIfRequested
    rw [if_neg]
    simp [State.setAccess, h ht]

/-! ### The order of starts (R133) -/

/-- A start keeps the order of starts free of circles: the item started comes last. -/
theorem startItem_keeps_order {s : State} (i : MirrorItem) (m : Mirror) (h : MirrorOrderLaw s)
    (hm : m.passed = s.mirror.passed) :
    ∃ rank : MirrorItem → Nat, ∀ q ∈ (startItem s i m).passed, rank q.1 < rank q.2 := by
  obtain ⟨rank, hr⟩ := h
  have le_sum : ∀ (l : List Nat) (k : Nat), k ∈ l → k ≤ l.sum := fun l k hk =>
    List.single_le_sum (fun _ _ => Nat.zero_le _) k hk
  refine ⟨fun j => if j = i then
    1 + (s.mirror.passed.map fun q => rank q.1).sum + ((allowedItems s).map rank).sum else rank j, ?_⟩
  intro q hq
  simp only [startItem, hm, List.mem_append, List.mem_filter, List.mem_map, decide_eq_true_eq] at hq
  rcases hq with ⟨hq, h1⟩ | ⟨j, ⟨hj, h1⟩, rfl⟩
  · have h2 := le_sum _ _ (List.mem_map.2 ⟨q, hq, rfl⟩ : rank q.1 ∈ s.mirror.passed.map fun q => rank q.1)
    by_cases e : q.2 = i
    · simp only [h1, e, ↓reduceIte]; omega
    · simpa [h1, e] using hr q hq
  · have h2 := le_sum _ _ (List.mem_map.2 ⟨j, hj, rfl⟩ : rank j ∈ (allowedItems s).map rank)
    simp only [h1, ↓reduceIte]; omega

end Sys2Proof.Machine
end

