-- ==== Sys2Proof/Laws/Memory.lean ====
section
/-! SUPPORT. The lists of cells behind the SRAM: what a read gives after a write, and that every write keeps the canonical
form; then the same for lanes, for a write of a word, and for the part's two operations on memory. -/
namespace Sys2Proof.Machine

variable {α : Type} [DecidableEq α]

theorem cellsAbove_mono {d : α} {lo lo' : Nat} {m : List (Nat × α)} (h : cellsAbove d lo m = true) (hl : lo' ≤ lo) :
    cellsAbove d lo' m = true := by
  cases m with
  | nil => rfl
  | cons c rest =>
    simp only [cellsAbove, Bool.and_eq_true, decide_eq_true_eq] at h ⊢
    exact ⟨⟨by omega, h.1.2⟩, h.2⟩

/-- Below the keys of a list every read gives the value of an unlisted key. -/
theorem cellRead_below {d : α} {lo a : Nat} {m : List (Nat × α)} (h : cellsAbove d lo m = true) (ha : a < lo) :
    cellRead d m a = d := by
  cases m with
  | nil => rfl
  | cons c rest =>
    simp only [cellsAbove, Bool.and_eq_true, decide_eq_true_eq] at h
    have h1 : c.1 ≠ a := by omega
    have h2 : a < c.1 := by omega
    simp [cellRead, h1, h2]

/-- A write keeps the keys above a bound that the written key is above. -/
theorem cellWrite_above {d : α} {lo a : Nat} {v : α} : ∀ {m : List (Nat × α)}, cellsAbove d lo m = true → lo ≤ a →
    cellsAbove d lo (cellWrite d m a v) = true
  | [], _, ha => by
    unfold cellWrite
    split
    · rfl
    · simp [cellsAbove, *]
  | (k, w) :: rest, h, ha => by
    simp only [cellsAbove, Bool.and_eq_true, decide_eq_true_eq] at h
    obtain ⟨⟨hk, hw⟩, hr⟩ := h
    unfold cellWrite
    split
    · rename_i hak
      split
      · simp [cellsAbove, *]
      · rename_i hv
        have : cellsAbove d (k + 1) rest = true := hr
        simp only [cellsAbove, Bool.and_eq_true, decide_eq_true_eq]
        exact ⟨⟨ha, hv⟩, ⟨by omega, hw⟩, hr⟩
    · split
      · rename_i hak
        subst hak
        split
        · exact cellsAbove_mono hr (by omega)
        · simp only [cellsAbove, Bool.and_eq_true, decide_eq_true_eq]
          exact ⟨⟨ha, by assumption⟩, hr⟩
      · simp only [cellsAbove, Bool.and_eq_true, decide_eq_true_eq]
        exact ⟨⟨hk, hw⟩, cellWrite_above hr (by omega)⟩

/-- A write keeps the canonical form. -/
theorem cellWrite_wf {d : α} {m : List (Nat × α)} (a : Nat) (v : α) (h : cellsWf d m = true) :
    cellsWf d (cellWrite d m a v) = true := cellWrite_above h (Nat.zero_le a)

/-- A read of the key just written gives the value written. -/
theorem cellRead_cellWrite_self {d : α} {a : Nat} {v : α} : ∀ {lo : Nat} {m : List (Nat × α)}, cellsAbove d lo m = true →
    cellRead d (cellWrite d m a v) a = v
  | _, [], _ => by
    unfold cellWrite
    split
    · simp [cellRead, *]
    · simp [cellRead]
  | lo, (k, w) :: rest, h => by
    simp only [cellsAbove, Bool.and_eq_true, decide_eq_true_eq] at h
    unfold cellWrite
    split
    · rename_i hak
      split
      · simp [cellRead, *]
        omega
      · simp [cellRead]
    · split
      · rename_i hak
        subst hak
        split
        · rename_i hv
          rw [cellRead_below h.2 (by omega), hv]
        · simp [cellRead]
      · rename_i h1 h2
        have h3 : k ≠ a := by omega
        simp only [cellRead, h3, h1, if_false]
        exact cellRead_cellWrite_self h.2

/-- A read of another key gives what it gave before. -/
theorem cellRead_cellWrite_other {d : α} {a b : Nat} {v : α} (hab : b ≠ a) : ∀ {lo : Nat} {m : List (Nat × α)},
    cellsAbove d lo m = true → cellRead d (cellWrite d m a v) b = cellRead d m b
  | _, [], _ => by
    unfold cellWrite
    split
    · rfl
    · simp [cellRead, Ne.symm hab]
  | lo, (k, w) :: rest, h => by
    simp only [cellsAbove, Bool.and_eq_true, decide_eq_true_eq] at h
    unfold cellWrite
    split
    · rename_i hak
      split
      · rfl
      · simp only [cellRead, Ne.symm hab, if_false]
        by_cases hb : b < a
        · have h1 : k ≠ b := by omega
          have h2 : b < k := by omega
          simp [hb, h1, h2]
        · simp [hb]
    · split
      · rename_i hak
        subst hak
        split
        · rename_i hv
          simp only [cellRead, Ne.symm hab, if_false]
          split
          · exact cellRead_below h.2 (by omega)
          · rfl
        · simp [cellRead, Ne.symm hab]
      · simp only [cellRead]
        rw [cellRead_cellWrite_other hab h.2]

/-- Two lists in canonical form that read the same everywhere are equal. -/
theorem cells_ext {d : α} : ∀ {lo : Nat} {m m' : List (Nat × α)}, cellsAbove d lo m = true → cellsAbove d lo m' = true →
    (∀ a, cellRead d m a = cellRead d m' a) → m = m'
  | _, [], [], _, _, _ => rfl
  | lo, [], (k, w) :: rest, _, h', e => by
    simp only [cellsAbove, Bool.and_eq_true, decide_eq_true_eq] at h'
    have := e k
    simp [cellRead] at this
    exact absurd this.symm h'.1.2
  | lo, (k, w) :: rest, [], h, _, e => by
    simp only [cellsAbove, Bool.and_eq_true, decide_eq_true_eq] at h
    have := e k
    simp [cellRead] at this
    exact absurd this h.1.2
  | lo, (k, w) :: rest, (k', w') :: rest', h, h', e => by
    simp only [cellsAbove, Bool.and_eq_true, decide_eq_true_eq] at h h'
    have hk : k = k' := by
      rcases Nat.lt_trichotomy k k' with hlt | heq | hgt
      · have := e k
        simp [cellRead, hlt, Nat.ne_of_gt hlt] at this
        exact absurd this h.1.2
      · exact heq
      · have := e k'
        simp [cellRead, hgt, Nat.ne_of_gt hgt] at this
        exact absurd this.symm h'.1.2
    subst hk
    have hw : w = w' := by have := e k; simpa [cellRead] using this
    subst hw
    refine congrArg _ (cells_ext h.2 h'.2 fun a => ?_)
    by_cases ha : k < a
    · have := e a
      have h1 : k ≠ a := by omega
      have h2 : ¬ a < k := by omega
      simpa [cellRead, h1, h2] using this
    · rw [cellRead_below h.2 (by omega), cellRead_below h'.2 (by omega)]

/-! ### Lanes -/

theorem Sram.wf_iff (m : Sram) :
    m.wf = true ↔ cellsWf Config.unwrittenByte m.data = true ∧ cellsWf Config.unwrittenCheck m.check = true := by
  simp [Sram.wf]

/-- Lanes of different words, and different lanes of a word, have different keys. -/
theorem laneKey_ne {a b : PhysAddr} {i k : Nat} (hi : i < 4) (hk : k < 4) (h : ¬ (a = b ∧ i = k)) :
    laneKey a i ≠ laneKey b k := by
  unfold laneKey
  intro e
  apply h
  have h1 : a.toNat = b.toNat := by omega
  exact ⟨BitVec.eq_of_toNat_eq h1, by omega⟩

theorem Sram.setLane_wf (m : Sram) (a : PhysAddr) (i : Nat) (b : BitVec 8) (c : Bool) (h : m.wf = true) :
    (m.setLane a i b c).wf = true := by
  rw [Sram.wf_iff] at h ⊢
  exact ⟨cellWrite_wf _ _ h.1, cellWrite_wf _ _ h.2⟩

theorem Sram.byte_setLane_self (m : Sram) (a : PhysAddr) (i : Nat) (b : BitVec 8) (c : Bool) (h : m.wf = true) :
    (m.setLane a i b c).byte a i = b ∧ (m.setLane a i b c).chk a i = c := by
  rw [Sram.wf_iff] at h
  exact ⟨cellRead_cellWrite_self h.1, cellRead_cellWrite_self h.2⟩

theorem Sram.byte_setLane_other (m : Sram) {a a' : PhysAddr} {i i' : Nat} (b : BitVec 8) (c : Bool) (h : m.wf = true)
    (hi : i < 4) (hi' : i' < 4) (hne : ¬ (a' = a ∧ i' = i)) :
    (m.setLane a i b c).byte a' i' = m.byte a' i' ∧ (m.setLane a i b c).chk a' i' = m.chk a' i' := by
  rw [Sram.wf_iff] at h
  have := laneKey_ne hi' hi hne
  exact ⟨cellRead_cellWrite_other this h.1, cellRead_cellWrite_other this h.2⟩

theorem Sram.writeLane_wf (m : Sram) (a : PhysAddr) (l : Lanes) (v : Word) (i : Nat) (h : m.wf = true) :
    (m.writeLane a l v i).wf = true := by
  unfold Sram.writeLane
  split
  · exact Sram.setLane_wf m a i _ _ h
  · exact h

/-- What one lane of a write does to lane `i'` of word `a'`. -/
theorem Sram.read_writeLane (m : Sram) (a a' : PhysAddr) (l : Lanes) (v : Word) {i i' : Nat} (h : m.wf = true)
    (hi : i < 4) (hi' : i' < 4) :
    ((m.writeLane a l v i).byte a' i' =
      if a' = a ∧ i' = i ∧ l.getLsbD i = true then laneByte v i else m.byte a' i') ∧
    ((m.writeLane a l v i).chk a' i' =
      if a' = a ∧ i' = i ∧ l.getLsbD i = true then checkBit (laneByte v i) else m.chk a' i') := by
  unfold Sram.writeLane
  by_cases hl : l.getLsbD i = true
  · by_cases e : a' = a ∧ i' = i
    · obtain ⟨rfl, rfl⟩ := e
      simp only [hl, if_true]
      have := Sram.byte_setLane_self m a' i' (laneByte v i') (checkBit (laneByte v i')) h
      simpa using this
    · have := Sram.byte_setLane_other m (laneByte v i) (checkBit (laneByte v i)) h hi hi' e
      have e' : ¬ (a' = a ∧ i' = i ∧ l.getLsbD i = true) := fun x => e ⟨x.1, x.2.1⟩
      rw [if_pos hl, if_neg e', if_neg e']
      exact this
  · simp [hl]

/-! ### Words -/

theorem Sram.write_wf (m : Sram) (a : PhysAddr) (l : Lanes) (v : Word) (h : m.wf = true) : (m.write a l v).wf = true := by
  unfold Sram.write
  simp only [List.foldl]
  exact Sram.writeLane_wf _ _ _ _ _ (Sram.writeLane_wf _ _ _ _ _ (Sram.writeLane_wf _ _ _ _ _
    (Sram.writeLane_wf _ _ _ _ _ h)))

/-- What a write of a word does to any lane. -/
theorem Sram.read_write (m : Sram) (a a' : PhysAddr) (l : Lanes) (v : Word) {i : Nat} (h : m.wf = true) (hi : i < 4) :
    ((m.write a l v).byte a' i = if a' = a ∧ l.getLsbD i = true then laneByte v i else m.byte a' i) ∧
    ((m.write a l v).chk a' i = if a' = a ∧ l.getLsbD i = true then checkBit (laneByte v i) else m.chk a' i) := by
  unfold Sram.write
  simp only [List.foldl]
  have w0 := Sram.writeLane_wf m a l v 0 h
  have w1 := Sram.writeLane_wf _ a l v 1 w0
  have w2 := Sram.writeLane_wf _ a l v 2 w1
  have r3 := Sram.read_writeLane _ a a' l v (i := 3) w2 (by omega) hi
  have r2 := Sram.read_writeLane _ a a' l v (i := 2) w1 (by omega) hi
  have r1 := Sram.read_writeLane _ a a' l v (i := 1) w0 (by omega) hi
  have r0 := Sram.read_writeLane m a a' l v (i := 0) h (by omega) hi
  rw [r3.1, r3.2, r2.1, r2.2, r1.1, r1.2, r0.1, r0.2]
  have : i = 0 ∨ i = 1 ∨ i = 2 ∨ i = 3 := by omega
  rcases this with rfl | rfl | rfl | rfl <;> simp

/-- The end of a cycle keeps the form. -/
theorem cycleMem_wf (m : Sram) (c : MCycle) (h : m.wf = true) : (cycleMem m c).wf = true := by
  unfold cycleMem
  split
  · exact Sram.write_wf _ _ _ _ h
  · exact h

theorem cutLane_wf (k : Nat) (c : MCycle) (m : Sram) (i : Nat) (h : m.wf = true) : (cutLane k c m i).wf = true := by
  unfold cutLane
  split
  · dsimp only
    split
    · exact h
    · exact Sram.writeLane_wf _ _ _ _ _ h
    · exact Sram.setLane_wf _ _ _ _ _ h
  · exact h

/-- A reset keeps the form. -/
theorem cutMem_wf (s : State) (h : s.mem.wf = true) : (cutMem s).wf = true := by
  unfold cutMem
  split
  · split
    · simp only [List.foldl]
      exact cutLane_wf _ _ _ _ (cutLane_wf _ _ _ _ (cutLane_wf _ _ _ _ (cutLane_wf _ _ _ _ h)))
    · exact h
  · exact h

/-- A lane that a cut write does not drive, and every lane of another word, is as it was; a driven one is as it was, or new,
or disagrees with its check bit. -/
theorem read_cutLane (k : Nat) (c : MCycle) (m : Sram) {i i' : Nat} (a' : PhysAddr) (h : m.wf = true) (hi : i < 4)
    (hi' : i' < 4) :
    ((cutLane k c m i).byte a' i' = m.byte a' i' ∧ (cutLane k c m i).chk a' i' = m.chk a' i') ∨
    (a' = c.addr ∧ i' = i ∧ c.lanes.getLsbD i = true ∧
      (((cutLane k c m i).byte a' i' = laneByte c.data i ∧ (cutLane k c m i).chk a' i' = checkBit (laneByte c.data i)) ∨
        laneInError ((cutLane k c m i).byte a' i') ((cutLane k c m i).chk a' i') = true)) := by
  unfold cutLane
  split
  · rename_i hl
    dsimp only
    split
    · exact Or.inl ⟨rfl, rfl⟩
    · have := Sram.read_writeLane m c.addr a' c.lanes c.data h hi hi'
      by_cases e : a' = c.addr ∧ i' = i ∧ c.lanes.getLsbD i = true
      · right
        rw [this.1, this.2, if_pos e, if_pos e]
        exact ⟨e.1, e.2.1, hl, Or.inl ⟨rfl, rfl⟩⟩
      · left
        rw [this.1, this.2, if_neg e, if_neg e]
        exact ⟨rfl, rfl⟩
    · by_cases e : a' = c.addr ∧ i' = i
      · obtain ⟨rfl, rfl⟩ := e
        right
        have := Sram.byte_setLane_self m c.addr i'
          ((m.byte c.addr i' &&& ~~~Config.cutMask k i') ||| (laneByte c.data i' &&& Config.cutMask k i'))
          (!checkBit ((m.byte c.addr i' &&& ~~~Config.cutMask k i') ||| (laneByte c.data i' &&& Config.cutMask k i'))) h
        rw [this.1, this.2]
        refine ⟨rfl, rfl, hl, Or.inr ?_⟩
        simp [laneInError, checkBit]
      · left
        exact Sram.byte_setLane_other m _ _ h hi hi' e
  · exact Or.inl ⟨rfl, rfl⟩

/-- The SRAM after reset is in canonical form. -/
theorem reset_mem_wf : State.reset.mem.wf = true := rfl

end Sys2Proof.Machine
end

