-- ==== Sys2Proof/WellFormed.lean ====
section
/-! DEFINITION. Which commands are well formed: a channel number and a group number lie in 0 to 23 (R1, R30). Every other
operand may have any value of its type. -/
namespace Sys2Proof

/-- R1: "That index, 0 to 23, is the channel number." -/
def wfChannel (c : Nat) : Bool := c < 24

/-- R30: "That index, 0 to 23, is the group number." -/
def wfGroup (g : Nat) : Bool := g < 24

/-- The operands of a command lie in the ranges the spec gives them. -/
def Instr.wf : Instr → Bool
  | .accessArrivalHeld _ _ => true
  | .reqFall _ => true
  | .portAccessTake _ _ => true
  | .producerWrite _ _ _ _ => true
  | .producerRead _ _ => true
  | .consumerRead _ _ => true
  | .commitRequest _ _ => true
  | .enableTake _ _ => true
  | .ackTake _ _ => true
  | .jreadTake _ _ => true
  | .rearmTake _ _ => true
  | .memoryCycleEnd => true
  | .cyclelessCompletion _ => true
  | .install => true
  | .tick => true
  | .fillExpiry c => wfChannel c
  | .freshnessDeadlineReached c => wfChannel c
  | .pinRelease g => wfGroup g
  | .partialPublication g => wfGroup g
  | .frameTick g => wfGroup g
  | .holdoverStart => true
  | .resetAssert => true
  | .resetRelease _ _ _ => true
  | .tclkEdge => true

end Sys2Proof
end

