-- ==== Sys2Proof/Tests/Slice0.lean ====
section
/-! SUPPORT. Small tests on fixed values: the well-formedness checks, values that the spec writes out, one or two steps of
each command, and for every statement with hypotheses a concrete state that meets them. -/
namespace Sys2Proof.Tests
open Sys2Proof Sys2Proof.Machine
set_option Elab.async false

/-! ### Well-formedness -/

theorem test_wf_fillExpiry_24 : (Instr.fillExpiry 24).wf = false := by decide
theorem test_wf_fillExpiry_23 : (Instr.fillExpiry 23).wf = true := by decide
theorem test_wf_freshness_24 : (Instr.freshnessDeadlineReached 24).wf = false := by decide
theorem test_wf_pinRelease_24 : (Instr.pinRelease 24).wf = false := by decide
theorem test_wf_partialPublication_24 : (Instr.partialPublication 24).wf = false := by decide
theorem test_wf_frameTick_24 : (Instr.frameTick 24).wf = false := by decide
theorem test_no_word_spells_a_command (nbits w : Nat) : decodeTableWord nbits w = none := rfl

/-! ### Values that the spec writes out -/

/-- R101: "An all-zero byte therefore has a check bit of 1". -/
theorem test_check_bit_of_zero_and_FF : checkBit 0x00 = true ∧ checkBit 0xFF = true ∧ checkBit 0x01 = false := by decide
theorem test_an_unwritten_byte_passes : laneInError Config.unwrittenByte Config.unwrittenCheck = false := by decide
/-- R108: B0. -/
theorem test_B0 : wordB0 = 0x1C5A2404#32 := by decide
/-- R77: the ownership classes at the edges of their ranges. -/
theorem test_word_classes :
    [0x000, 0x004, 0x005, 0x008, 0x010, 0x020, 0x02D, 0x03F, 0x040, 0x19F, 0x1A0, 0x200, 0x28F, 0x290, 0x400, 0x7FF, 0x800,
      0xFFF].map wordClass =
    [.partOwned, .partOwned, .user, .trigger .commit, .table, .partOwned, .trigger (.rearm .B), .user, .table, .table, .user,
      .partOwned, .partOwned, .user, .partOwned, .partOwned, .user, .user] := by decide
/-- R85: 32 Ki words for each step of MSZ. -/
theorem test_fitted_words : [0#2, 1#2, 2#2, 3#2].map fittedWords = [32768, 65536, 98304, 131072] := by decide
/-- R114: the table reads at the edges of the tables. -/
theorem test_table_addresses : [0, 1, 64, 65, 256, 257, 352].map tableAddr = [0x010, 0x040, 0x07F, 0x080, 0x13F, 0x140, 0x19F] := by
  decide
/-- R161: the priority code is the lowest cause in both sets, 15 where there is none. -/
theorem test_priority_code : priorityCode 0xC10 0xC00 = 10 ∧ priorityCode 0x001 0x002 = 15 := by decide

/-! ### States for the tests -/

/-- A cycle of the Mirror in progress, so that no grant follows. -/
def busyCycle : MCycle := { use := .mirror, addr := 0, wr := true, lanes := 0xF, data := 0x1C5A2404 }

/-- The flight that `busyCycle` belongs to. -/
def busyFlight : Flight := { item := .part 0, content := [0x1C5A2404], granted := 1, changed := false }

/-- The part out of reset, UNCONFIGURED, 128 Ki words fitted, a Mirror cycle in progress, no item dirty. -/
def bare : State :=
  { State.reset with
    pins := { rstN := true, pfailN := true, msz := 3, cfgp := false }
    msz := 3
    cycle := some busyCycle
    mirror := { Mirror.reset with dirty := [], flight := some busyFlight } }

/-- A channel of depth 2 and length 4 in group 23, produced by Port A, with next member `next`, flag nibble `flags`, logical
base `lb`, buffers at `pb` and `pb + 4`, limits `w7`. -/
def descOf (next flags lb pb : Nat) (w7 : Word) : ChanDesc :=
  { w0 := BitVec.ofNat 32 (1 + 4 * 2 + 0x100 * 23 + 0x10000 * next + 0x1000000 * flags)
    w1 := BitVec.ofNat 32 lb, w2 := 4, w3 := BitVec.ofNat 32 pb, w4 := BitVec.ofNat 32 (pb + 4), w5 := 0, w6 := 0, w7 := w7 }

/-- A channel as created (R3). -/
def chanOf (d : ChanDesc) : Channel := Channel.created d none 0

/-- Group 23 with mode code `mode`, first member 22, W1 `w1`, hold limit `hold`. -/
def groupOf (mode : Nat) (w1 hold : Word) : Group :=
  { desc := { w0 := BitVec.ofNat 32 (1 + 0x10 * mode + 0x100 * 22), w1 := w1, w2 := 0, w3 := hold }
    pin := none, gather := none, nextFrame := none }

/-- RUNNING with channels 22 and 23 as the chain of group 23, and PLAIN region 15 from 1000h to 1FFFh, read-only for
Port B. Channel 23's window and last buffer end where the logical and the physical space end. -/
def running (c22 c23 : Channel) (g : Group) : State :=
  { bare with
    partState := .running
    mapState := .installed
    channels := ((Vector.replicate 24 none).setIfInBounds 22 (some c22)).setIfInBounds 23 (some c23)
    groups := (Vector.replicate 24 none).setIfInBounds 23 (some g)
    regions := (Vector.replicate 16 none).setIfInBounds 15
      (some { rightsA := .readWrite, rightsB := .read, lbase := 0x1000, len := 0x1000, pbase := 0x8000 }) }

/-- Channel 22 under NOTIFY and STOP_ON_ERROR, fill limit 5 and freshness limit 7. -/
def c22 : Channel := chanOf (descOf 23 3 0x4000 0x10000 0x00070005)

/-- Channel 23 under NOTIFY and BLANK. -/
def c23 : Channel := chanOf (descOf 31 9 0xFFFC 0x1FFF8 0)

/-- An open pass of sequence number 1 on buffer 1. -/
def pass1 : FillPass := { target := .buffer 1, seq := 1, openTime := 0, deadline := none }

/-- A SHED pass of sequence number 1. -/
def passShed : FillPass := { pass1 with target := .shed }

/-- A pending buffer 0. -/
def pend0 : PendingBuffer := { buf := 0, seq := 9, openTime := 2, closeTime := 3 }

/-- A pin open since 0 with a hold deadline. -/
def pin0 : Pin := { openTime := 0, deadline := some { start := 0, limit := 3 }, tainted := false }

/-- A TIMED group. -/
def timed : Group := groupOf 2 10 3

/-- An IMMEDIATE group. -/
def immediate : Group := groupOf 1 0 3

/-- A GATHERED group. -/
def gathered : Group := groupOf 3 6 3

/-- The plain running part. -/
def run : State := running c22 c23 immediate

/-- The state with the access of port `p` as given and REQ high. -/
def withAccess (s : State) (p : Port) (a : AccessState) : State :=
  { s with ports := s.ports.modify p fun q => { q with req := true, access := a } }

/-- The state with a cycle of port `p` in progress for the access `t`. -/
def inCycle (s : State) (p : Port) (t : Taken) (a : PhysAddr) : State :=
  { withAccess s p (.inCycle t) with
    cycle := some { use := .port p, addr := a, wr := t.drive.wr, lanes := t.drive.lanes, data := t.drive.data }
    mirror := Mirror.reset }

/-- The closing write by Port A of the pass on buffer 1 of channel 22. -/
def closingWrite : Taken :=
  { drive := Drive.write 0x4003 0xF 0xABCD
    outcome := .channel { ch := 22, side := .producer, steer := .buffer 1 0x10007, passSeq := some 1, closing := true }
    err := false
    withdrawn := false }

/-- A user-word access. -/
def userAccess (wr : Bool) : Taken :=
  { drive := { wr := wr, addr := 0xFFF, lanes := 0xF, data := 5 }, outcome := .control .user false 0xFFF, err := false
    withdrawn := false }

/-- A full-lane write to the last word of the control area. -/
def writeFFF : Drive := Drive.write 0xFFF 0xF 5

/-- What a command answers, as a state. -/
def after (c : Instr) (s : State) : State :=
  match exec c s with
  | .next t => t
  | _ => s

/-! ### One step of each command -/

/-- R55, R56: the count rises to the divisor, then the clock advances modulo 2^32. -/
theorem test_tclkEdge_counts : (after .tclkEdge { run with divisor := 3, prescaler := 1 }).prescaler = 2 := by decide +kernel
theorem test_tick_wraps : (after .tick { run with divisor := 3, prescaler := 2, clock := 0xFFFFFFFF }).clock = 0 := by
  decide +kernel

/-- R7: a write in the window opens a pass on buffer 0 and is steered to its word. -/
theorem test_producerWrite_opens : ((after (.producerWrite .A 0x4003 0xF 1) run).channel? 22).bind (·.pass) =
    some { target := .buffer 0, seq := 1, openTime := 0, deadline := none } := by decide +kernel
theorem test_producerWrite_steers : (after (.producerWrite .A 0x4002 0xF 1) run).inFlight? .A = some
    { drive := Drive.write 0x4002 0xF 1
      outcome := .channel { ch := 22, side := .producer, steer := .buffer 0 0x10002, passSeq := some 1, closing := false }
      err := false, withdrawn := false } := by decide +kernel
/-- R17: with neither pass nor live buffer a producer read is served as zero. -/
theorem test_producerRead_zero : ((after (.producerRead .A 0x4000) run).inFlight? .A).map (·.outcome) =
    some (.channel { ch := 22, side := .producer, steer := .nowhere, passSeq := none, closing := false }) := by decide +kernel
/-- R44: a consumer read opens the pin of the group with its hold deadline. -/
theorem test_consumerRead_pins : ((after (.consumerRead .B 0x4000) run).group? 23).bind (·.pin) =
    some { openTime := 0, deadline := some { start := 0, limit := 3 }, tainted := false } := by decide +kernel
/-- R47: the read of the closing word of the closing member leaves no hold deadline. -/
theorem test_consumerRead_closing : ((after (.consumerRead .B 0xFFFF) run).group? 23).bind (·.pin) =
    some { openTime := 0, deadline := none, tainted := false } := by decide +kernel
/-- R88: the VIOLATION record of a write to a word that the part owns. -/
theorem test_violation_record : violationRecord .owned 0 none (Drive.write 0x0004 0xF 7) 6 =
    { w0 := 0x0FB7000A, w1 := 0x00000004, w2 := 6, w3 := 0 } := by decide +kernel
theorem test_violation_counts : ((after (.portAccessTake .B (Drive.write 0x0004 0xF 7)) run).journals.get .B).w = 1 := by
  decide +kernel
/-- R95: an arrival is held in a drain. -/
theorem test_arrival_held : (after (.accessArrivalHeld .A writeFFF)
    { withAccess run .B (.taken (userAccess true)) with
      loader := .draining { gen := 1, start := 0, words := [], firstFail := none, cands := [], resume := [] } }).access .A =
      .deferred writeFFF := by decide +kernel
/-- R94: REQ falls under an access in flight. -/
theorem test_reqFall_withdraws : (after (.reqFall .A) (withAccess run .A (.taken (userAccess true)))).access .A =
    .taken { userAccess true with withdrawn := true } := by decide +kernel
theorem test_reqFall_done : (after (.reqFall .A) (withAccess run .A (.done (userAccess true) 0 false))).access .A = .idle := by
  decide +kernel
/-- R112: generation 0 starts nothing; another starts READING. -/
theorem test_commit_zero : (after (.commitRequest .A 0x00010000) run).loader = .idle := by decide +kernel
theorem test_commit_starts : (after (.commitRequest .A 0xFFFF0007) run).loader =
    .reading { gen := 7, start := 0, words := [], firstFail := none, cands := [], resume := [] } := by decide +kernel
/-- R160: the enable set takes bits 11:0. -/
theorem test_enable : ((after (.enableTake .B 0xFFFFF0FF) run).attention.get .B).enable = 0x0FF := by decide +kernel
/-- R145: a read index beyond the span raises INDEX_FAULT, bit 9. -/
theorem test_jread_refused : ((after (.jreadTake .A 1) run).attention.get .A).latched = 0x200 := by decide +kernel
/-- R158: a level cause is not cleared, an event cause is. -/
theorem test_ack : ((after (.ackTake .A 0xFFF)
    { run with attention := { run.attention with a := { Attention.reset with latched := 0x7CE } } }).attention.get .A).latched =
      0 := by decide +kernel
/-- R24: the halted channel is rearmed by its producer only. -/
theorem test_rearm : ((after (.rearmTake .A 0x00400000) (running { c22 with halted := true } c23 immediate)).channel? 22).map
    (·.halted) = some false := by decide +kernel
theorem test_rearm_foreign : ((after (.rearmTake .B 0x00400000) (running { c22 with halted := true } c23 immediate)).channel?
    22).map (·.halted) = some true := by decide +kernel
/-- R97, R10, R19: the closing write lands and its buffer is published. -/
theorem test_cycleEnd_publishes : ((after .memoryCycleEnd
    (inCycle (running { c22 with pass := some pass1, fillSeq := 1 } c23 immediate) .A closingWrite 0x10007)).channel? 22).map
      (fun c => (c.live, c.pubCount, c.cond, c.freshDl)) = some (some 1, 1, .fresh, some { start := 0, limit := 7 }) := by
  decide +kernel
theorem test_cycleEnd_lands : (after .memoryCycleEnd (inCycle run .A closingWrite 0x10007)).mem.word 0x10007 = 0xABCD := by
  decide +kernel
/-- R93: a read without a cycle returns zero. -/
theorem test_cycleless : (after (.cyclelessCompletion .B) (withAccess run .B (.taken
    { userAccess false with outcome := .unmapped }))).access .B =
      .done { userAccess false with outcome := .unmapped } 0 false := by decide +kernel
/-- R14, R22: an expired pass under STOP_ON_ERROR halts the channel. -/
theorem test_fillExpiry : ((after (.fillExpiry 22) { running
    { c22 with pass := some { pass1 with deadline := some { start := 0xFFFFFFFE, limit := 5 } } } c23 immediate with
      clock := 3 }).channel? 22).map (fun c => (c.pass, c.halted)) = some (none, true) := by decide +kernel
/-- The withdrawn closing write of a SHED pass of channel 22, FILL_FAULT latched before, and REQ high again with a REARM_A
write of channel 22 driven. -/
def shedThenRearm : State :=
  let s := withAccess (running { c22 with pass := some passShed } c23 immediate) .A (.taken
    { drive := Drive.write 0x4003 0xF 1
      outcome := .channel { ch := 22, side := .producer, steer := .nowhere, passSeq := some 1, closing := true }
      err := false
      withdrawn := true })
  { s with
    ports := s.ports.modify .A fun q => { q with inputs := triggerDrive (.rearm .A) 0x00400000 }
    attention := s.attention.modify .A fun a => { a with latched := Cause.fillFault.bit } }
/-- R157: HALTED begins at the close and ends at the take of the same event: the report word is marked. -/
theorem test_a_halt_ended_within_its_event_is_reported :
    ((after (.cyclelessCompletion .A) shedThenRearm).channel? 22).map (·.halted) = some false ∧
    pendingSet (after (.cyclelessCompletion .A) shedThenRearm) .A = pendingSet shedThenRearm .A ∧
    (after (.cyclelessCompletion .A) shedThenRearm).mirror.dirty.contains (.report .A) = true := by decide +kernel
/-- R68: EMPTY goes to STALE. -/
theorem test_freshness : ((after (.freshnessDeadlineReached 22) { run with clock := 7 }).channel? 22).map
    (fun c => (c.cond, c.freshDl)) = some (.stale, none) := by decide +kernel
/-- R50: the pin is released. -/
theorem test_pinRelease : ((after (.pinRelease 23) { running c22 c23 { immediate with
    pin := some { openTime := 1, deadline := some { start := 1, limit := 3 }, tainted := true } } with clock := 4 }).group? 23).map
      (·.pin) = some none := by decide +kernel
/-- R41: the one pending member is published. -/
theorem test_partialPublication : ((after (.partialPublication 23) { running { c22 with pend := some pend0 } c23
    { gathered with gather := some { start := 0, deadline := some { start := 0, limit := 6 } } } with clock := 6 }).channel?
      22).map (fun c => (c.live, c.pend)) = some (some 0, none) := by decide +kernel
/-- R37, R65: the frame tick publishes and sets the next frame time. -/
theorem test_frameTick : ((after (.frameTick 23) { running { c22 with pend := some pend0 } c23
    { timed with nextFrame := some 4 } with clock := 4 }).group? 23).map (·.nextFrame) = some (some 14) := by decide +kernel
/-- R172, R173: holdover aborts the pass. -/
theorem test_holdoverStart : ((after .holdoverStart (running { c22 with pass := some pass1 } c23 immediate)).channel? 22).map
    (·.pass) = some none := by decide +kernel
/-- R168, R169: reset and its release. -/
theorem test_resetAssert : (after .resetAssert run).partState = .unconfigured := by decide +kernel
theorem test_resetRelease : (after (.resetRelease 2 true false) State.reset).configPort = .B ∧
    (after (.resetRelease 2 true false) State.reset).msz = 2 := by decide +kernel

/-! ### The hypotheses of the statements are met -/

/-- Channel 0 alone in group 0, with flag nibble `flags`. -/
def desc0 (flags : Nat) : ChanDesc :=
  { descOf 31 flags 0x3000 0x6000 0 with w0 := BitVec.ofNat 32 (1 + 4 * 2 + 0x10000 * 31 + 0x1000000 * flags) }

/-- A load whose table set holds channels 22 and 23 as they are in `run`, group 23 with W0 and W1 of `g` and no hold limit,
channel 0 with flag nibble `flags` and group 0 new, group 0 TIMED, region 2 of 100h words from 2000h, prescale code 9, ERR ON
for Port A and OFF for Port B. -/
def setOf (g : Group) (flags : Nat) : Load :=
  let put := fun (ws : List Word) (p : Nat × Word) => ws.set p.1 p.2
  let chan := fun (n : Nat) (d : ChanDesc) =>
    [(65 + 8 * n, d.w0), (66 + 8 * n, d.w1), (67 + 8 * n, d.w2), (68 + 8 * n, d.w3), (69 + 8 * n, d.w4), (72 + 8 * n, d.w7)]
  { gen := 5
    start := 0
    words := ((0, 0x609#32) :: chan 22 c22.desc ++ chan 23 c23.desc ++ chan 0 (desc0 flags) ++
      [(257 + 4 * 23, g.desc.w0), (258 + 4 * 23, g.desc.w1), (257, 0x21), (258, 4), (9, 0x71), (10, 0x2000), (11, 0x100),
        (12, 0x7000)]).foldl put (List.replicate 353 0)
    firstFail := none
    cands := []
    resume := [] }

/-- Group 23 carried with another hold limit. -/
def newSet : Load := setOf immediate 0

/-- `run` with `newSet` DRAINING. -/
def draining : State := { run with loader := .draining newSet }

/-- Group 23 not carried: it is TIMED in the new set. -/
def regroupSet : Load := setOf timed 0

/-- `regroupSet` DRAINING; channel 22 has a pending buffer, and group 23 a pin under which channel 23 holds a buffer. -/
def regrouping : State :=
  { running { c22 with pend := some pend0 } { c23 with held := some 1 } { immediate with pin := some pin0 } with
    loader := .draining regroupSet }

theorem witness_StepRunsTheFrontCommand : { run with pending := [.tick] }.pending = Instr.tick :: [] ∧ run.pending = [] := by
  decide +kernel
theorem witness_NothingDueSettlesToItself : settled run = true := by decide +kernel
theorem witness_EveryPortCommandPresentsItsAccess : (accessOf (.rearmTake .B 1)).isSome = true ∧
    (accessOf (.accessArrivalHeld .A writeFFF)).isSome = true ∧ (accessOf (.producerRead .A 0xFFFF)).isSome = true := by decide

/-- A read cycle of Port A in progress. -/
def reading : State := inCycle run .A (userAccess false) 0xFFF
/-- A write cycle of Port A in progress, in lanes 0 and 3. -/
def writing : State := inCycle run .A { userAccess true with drive := { userAccess true |>.drive with lanes := 0x9 } } 0xFFF

theorem witness_OnlyAWriteCycleOrAResetTouchesMemory : (Instr.memoryCycleEnd ≠ .resetAssert) ∧
    (∀ c, (settle reading).cycle = some c → c.wr = false) ∧ (∃ t, exec .memoryCycleEnd reading = .next t) := by
  refine ⟨by decide, ?_, _, rfl⟩
  have h : (settle reading).cycle.map (·.wr) = some false := by decide +kernel
  intro c hc
  simpa [hc] using h
theorem witness_AWriteCycleLandsInItsDrivenLanes : writing.mem.wf = true ∧
    (settle writing).cycle = some { use := .port .A, addr := 0xFFF, wr := true, lanes := 0x9, data := 5 } ∧
    (0x9#4).getLsbD 0 = true ∧ (0x9#4).getLsbD 1 = false ∧ (0x9#4).getLsbD 3 = true ∧
    (∃ t, exec .memoryCycleEnd writing = .next t) := by
  exact ⟨by decide +kernel, by decide +kernel, by decide, by decide, by decide, _, rfl⟩
theorem witness_AResetSparesAllButTheLanesBeingWritten : writing.mem.wf = true ∧ (∃ t, exec .resetAssert writing = .next t) :=
  ⟨by decide +kernel, _, rfl⟩
theorem witness_AGrantChangesOnlyWhatItServes : run.cycle ≠ none ∧ State.reset.pins.rstN = false ∧
    installOwed { draining with cycle := none } = true ∧
    (∀ r, waits { run with cycle := none, mirror := { Mirror.reset with dirty := [] } } r = false) := by
  refine ⟨by decide +kernel, by decide +kernel, by decide +kernel, ?_⟩
  rintro (p | _) <;> try cases p
  all_goals decide +kernel

/-- Port B waits, the M port is free, ENGINE was granted last. -/
def waiting : State := { withAccess run .B (.taken (userAccess true)) with
  cycle := none, mirror := { Mirror.reset with dirty := [] }, requestLines := { a := false, b := true, engine := false } }
/-- The Loader waits. -/
def loading : State := { run with
  cycle := none, mirror := { Mirror.reset with dirty := [] }, requestLines := { a := false, b := false, engine := true }
  loader := .reading (newLoad 1 0) }
/-- Port B has just begun to wait, alone; and Port A and the Engine wait, the Engine since before. -/
def arrived : State := { waiting with requestLines := { a := false, b := false, engine := false } }
def contended : State := { withAccess run .A (.taken (userAccess true)) with
  cycle := none, requestLines := { a := false, b := false, engine := true }, lastGranted := .port .B
  loader := .reading (newLoad 1 0) }
theorem witness_TheRotationGrantsTheFirstWaiting : waiting.pins.rstN = true ∧ waiting.cycle = none ∧
    installOwed waiting = false ∧ (∀ q, waits waiting q = true → waiting.requestLines.has q = true) ∧
    (searchOrder waiting.lastGranted).find? (waits waiting) = some (.port .B) := by
  refine ⟨by decide +kernel, by decide +kernel, by decide +kernel, ?_, by decide +kernel⟩
  rintro (p | _) <;> try cases p
  all_goals decide +kernel
theorem witness_TheRotationGrantsOneThatWaitsAlone : arrived.pins.rstN = true ∧ arrived.cycle = none ∧
    installOwed arrived = false ∧ waits arrived (.port .B) = true ∧ arrived.requestLines.has (.port .B) = false ∧
    (∀ x, waits arrived x = true → x = .port .B) ∧ (grant arrived).lastGranted = .port .B := by
  refine ⟨by decide +kernel, by decide +kernel, by decide +kernel, by decide +kernel, by decide +kernel, ?_,
    by decide +kernel⟩
  rintro (p | _) <;> try cases p
  all_goals decide +kernel
theorem witness_TheRotationPassesOverNoneThatWaited : contended.pins.rstN = true ∧ contended.cycle = none ∧
    installOwed contended = false ∧ waits contended .engine = true ∧ contended.requestLines.has .engine = true ∧
    waits contended (.port .A) = true ∧ contended.requestLines.has (.port .A) = false ∧
    (grant contended).lastGranted = .engine ∧ loaderNext contended = some 0x010 := by decide +kernel

/-- The Mirror waits with the items `dirty` and the flight `f`; channel 22's status block has been passed by Port B's report
word. -/
def mirroring (dirty : List MirrorItem) (f : Option Flight) : State := { run with
  cycle := none
  mirror := { Mirror.reset with dirty := dirty, flight := f, passed := [(.chanBlock 22, .report .B)] }
  requestLines := { a := false, b := false, engine := true } }

/-- Both items wait: channel 22's block goes first. -/
def startingItem : State := mirroring [.chanBlock 22, .report .B] none

/-- The last cycle of channel 23's status block is still to be granted. -/
def lastFlight : Flight := { item := .chanBlock 23, content := [1, 2, 3, 4], granted := 4, changed := true }

/-- That item in flight. -/
def continuingItem : State := mirroring [] (some lastFlight)

theorem mirroring_order (dirty : List MirrorItem) (f : Option Flight) : MirrorOrderLaw (mirroring dirty f) := by
  refine ⟨fun i => if i = .chanBlock 22 then 0 else 1, ?_⟩
  intro q h
  have e : q = (.chanBlock 22, .report .B) := by simpa [mirroring] using h
  subst e
  decide
theorem witness_AMirrorGrantWritesOneItem : startingItem.pins.rstN = true ∧ startingItem.cycle = none ∧
    installOwed startingItem = false ∧ waits startingItem .engine = true ∧ (grant startingItem).lastGranted = .engine ∧ loaderNext startingItem = none ∧
    FlightLaw startingItem ∧ MirrorOrderLaw startingItem ∧ (∀ i ∈ startingItem.mirror.dirty, i.inArea) ∧
    (∀ f, startingItem.mirror.flight = some f → f.item.inArea) := by
  refine ⟨by decide +kernel, by decide +kernel, by decide +kernel, by decide +kernel, by decide +kernel, by decide +kernel,
    ?_, mirroring_order _ _, ?_, ?_⟩
  · intro f h; cases h
  · intro i h
    have e : i = .chanBlock 22 ∨ i = .report .B := by simpa [startingItem, mirroring] using h
    rcases e with rfl | rfl <;> simp [MirrorItem.inArea]
  · intro f h; cases h
theorem witness_AMirrorGrantContinuesAnItem : continuingItem.pins.rstN = true ∧ continuingItem.cycle = none ∧
    installOwed continuingItem = false ∧ waits continuingItem .engine = true ∧ (grant continuingItem).lastGranted = .engine ∧ loaderNext continuingItem = none ∧
    FlightLaw continuingItem ∧ MirrorOrderLaw continuingItem ∧ (∀ i ∈ continuingItem.mirror.dirty, i.inArea) ∧
    (∀ f, continuingItem.mirror.flight = some f → f.item.inArea) := by
  refine ⟨by decide +kernel, by decide +kernel, by decide +kernel, by decide +kernel, by decide +kernel, by decide +kernel,
    ?_, mirroring_order _ _, ?_, ?_⟩
  · intro f h; cases h; exact ⟨by decide, by decide, fun h => absurd h (by decide)⟩
  · intro i h; cases h
  · intro f h; cases h; simp [MirrorItem.inArea, lastFlight]
/-- R134, R133: the item passed over goes first, with the advanced update count in its head; the last cycle writes the head
again. -/
theorem test_mirror_grants :
    (grant startingItem).cycle = some { use := .mirror, addr := 0x258, wr := true, lanes := 0xF, data := 0x00777701 } ∧
    (grant startingItem).mirror.dirty = [.report .B] ∧
    (grant continuingItem).cycle = some { use := .mirror, addr := 0x25C, wr := true, lanes := 0xF, data := 1 } ∧
    (grant continuingItem).mirror.count (.chanBlock 23) = 1 := by decide +kernel

/-- 10.3: B1 to B4 of `loading`, RUNNING and READING, with a last load that failed. -/
theorem test_part_block : [1, 2, 3, 4].map (fun n => itemContent { loading with
      installedGen := 7
      lastResult := { gen := 8, code := .badChannel, detail := { table := .channel, index := 22 } }
      configPort := .B
      divisor := 256 } (.part n)) =
    [[0x00050007#32], [0x00030008#32], [0x00003016#32], [0x01001380#32]] := by decide +kernel

theorem run_takes (p : Port) : Takes (settle run) p := by
  cases p <;> (simp only [Takes]; decide +kernel)
theorem witness_ControlWordsAreReachedByTheirClass :
    Takes (settle run) .A ∧ Takes (settle run) .B ∧
    (0xFFF#16).toNat ≤ 0xFFF ∧ wordClass 0xFFF = .user ∧
    wordClass 0x19F = .table ∧ (settle run).configPort = .A ∧ wordClass 0x02D = .trigger (.rearm .B) ∧
    Trigger.owner (.rearm .B) .A = .B ∧ (0x7#4 ≠ 0xF#4) :=
  ⟨run_takes .A, run_takes .B, by decide +kernel⟩

/-- UNCONFIGURED with 32 Ki words fitted. -/
def small : State := { bare with msz := 0 }
theorem small_takes : Takes (settle small) .A := by simp only [Takes]; decide +kernel
theorem witness_AddressesInTheIdentityWindow :
    Takes (settle small) .A ∧
    (settle small).mapState = .unconfigured ∧
    0xFFF < (0x1000#16).toNat ∧ (0x7FFF#16).toNat < fittedWords (settle small).msz ∧
    fittedWords (settle small).msz ≤ (0x8000#16).toNat :=
  ⟨small_takes, by decide +kernel⟩
theorem witness_AddressesOutsideTheControlAreaLandByTheMap :
    Takes (settle run) .A ∧ Takes (settle run) .B ∧ 0xFFF < (0x1FFF#16).toNat ∧
    (settle run).mapState = .installed ∧
    (settle run).channelAt 0x1FFF = none ∧ (settle run).regionAt 0x1FFF = some 15 ∧
    ((settle run).region? 15).map (fun g => ((g.rights .A).allow true, (g.rights .B).allow false)) = some (true, true) ∧
    (settle run).channelAt 0x2000 = none ∧ (settle run).regionAt 0x2000 = none :=
  ⟨run_takes .A, run_takes .B, by decide, by decide +kernel⟩
theorem witness_ARefusedAccessIsAViolation : Takes (settle run) .A ∧ Takes (settle run) .B ∧
    Refuses (settle run) .A (Drive.write 0x004 0xF 0) .owned 0 none ∧
    Refuses (settle run) .B (Drive.write 0x010 0 0) .table 0 none ∧
    Refuses (settle run) .B (Drive.write 0x008 0xF 0) .foreignTrigger 0 none := by
  refine ⟨run_takes .A, run_takes .B, by simp only [Refuses]; decide +kernel, by simp only [Refuses]; decide +kernel, ?_⟩
  exact ⟨rfl, by decide, ⟨.commit, by decide, by decide +kernel⟩, rfl, rfl⟩
theorem witness_ARefusedWindowAccessIsAViolation : Takes (settle run) .B ∧
    Refuses (settle run) .B (Drive.write 0x1FFF 0xF 0) .rights 0 (some 15) ∧
    Refuses (settle run) .B (Drive.write 0xFFFF 1 0) .consumerWrite 23 none := by
  refine ⟨run_takes .B, ⟨15, 0x8FFF, { rightsA := .readWrite, rightsB := .read, lbase := 0x1000, len := 0x1000, pbase := 0x8000 },
    by decide +kernel, rfl, rfl, rfl⟩, rfl, ⟨3, c23, by decide +kernel, by decide +kernel, by decide +kernel⟩, rfl⟩
/-- DRAINING, Port B's access in flight, Port A IDLE. -/
def drainingHeld : State := withAccess draining .B (.taken (userAccess true))
theorem witness_AnArrivalIsHeldInADrainAndIgnoredInReset :
    accessOf (.portAccessTake .A writeFFF) = some (.A, writeFFF) ∧ (settle drainingHeld).pins.rstN = true ∧
    ((settle drainingHeld).ports.get .A).req = false ∧ (settle drainingHeld).access .A = .idle ∧
    (settle drainingHeld).draining = true ∧ (settle State.reset).pins.rstN = false ∧
    ((settle drainingHeld).ports.get .B).req = true := by decide +kernel
theorem witness_AFallOfReqReleasesThePort : ((settle reading).ports.get .A).req = true ∧
    (settle reading).access .A = .inCycle (userAccess false) ∧ ((settle waiting).ports.get .B).req = true ∧
    (settle waiting).access .B = .taken (userAccess true) := by decide +kernel
theorem witness_TheTargetIsTheLowestFreeBuffer : c22.chooseTarget = .buffer 0 ∧
    ({ c22 with live := some 1, held := some 0 } : Channel).chooseTarget = .shed ∧
    ({ c22 with live := some 0 } : Channel).chooseTarget = .buffer 1 := by decide +kernel

theorem witness_AProducerWriteOpensAPass :
    Takes (settle run) .A ∧
    landing (settle run) 0x4003 = .channel 22 3 ∧
    landing (settle run) 0x4000 = .channel 22 0 ∧ (settle run).channel? 22 = some c22 ∧ c22.desc.producer = .A ∧
    (settle run).partState = .running ∧ c22.halted = false ∧ c22.pass = none ∧ c22.desc.len = 4 :=
  ⟨run_takes .A, by decide +kernel⟩
/-- A pass open in channel 22, and SHED in 23. -/
def filling : State := running { c22 with pass := some pass1, fillSeq := 1 } { c23 with pass := some passShed } immediate
/-- Channel 22 halted. -/
def halted : State := running { c22 with halted := true } c23 immediate
theorem filling_takes : Takes (settle filling) .A := by simp only [Takes]; decide +kernel
theorem halted_takes : Takes (settle halted) .A := by simp only [Takes]; decide +kernel
theorem holdover_takes : Takes (settle { filling with partState := .holdover }) .A := by simp only [Takes]; decide +kernel
theorem witness_AProducerWriteJoinsTheOpenPassOrIsDropped :
    Takes (settle filling) .A ∧ Takes (settle halted) .A ∧ Takes (settle { filling with partState := .holdover }) .A ∧
    landing (settle filling) 0x4003 = .channel 22 3 ∧
    (settle filling).channel? 22 = some { c22 with pass := some pass1, fillSeq := 1 } ∧
    (settle filling).partState = .running ∧ landing (settle halted) 0x4000 = .channel 22 0 ∧
    (settle halted).channel? 22 = some { c22 with halted := true } ∧
    (settle { filling with partState := .holdover }).partState = .holdover :=
  ⟨filling_takes, halted_takes, holdover_takes, by decide +kernel⟩
theorem witness_AProducerReadIsServedFromTargetOrLive :
    Takes (settle filling) .A ∧
    landing (settle filling) 0xFFFF = .channel 23 3 ∧
    (settle filling).channel? 23 = some { c23 with pass := some passShed } ∧ c23.desc.producer = .A ∧
    ({ c22 with pass := some pass1 } : Channel).filling = some 1 ∧
    ({ c23 with pass := some passShed } : Channel).filling = none :=
  ⟨filling_takes, by decide +kernel⟩
theorem witness_AConsumerReadOpensAPin :
    Takes (settle run) .B ∧
    landing (settle run) 0xFFFF = .channel 23 3 ∧
    (settle run).channel? 23 = some c23 ∧ c23.desc.producer = Port.B.other ∧ c23.desc.group = 23 ∧
    (settle run).group? 23 = some immediate ∧ immediate.pin = none ∧ (settle run).isClosingMember 23 23 = true ∧
    (settle run).isClosingMember 23 22 = false :=
  ⟨run_takes .B, by decide +kernel⟩
/-- The group's pin open, channel 22 with a held buffer. -/
def pinned : State := running { c22 with held := some 0 } c23 { immediate with pin := some pin0 }
theorem pinned_takes : Takes (settle pinned) .B := by simp only [Takes]; decide +kernel
theorem witness_AConsumerReadUnderAPinReadsTheHeldBuffer :
    Takes (settle pinned) .B ∧
    landing (settle pinned) 0x4000 = .channel 22 0 ∧
    landing (settle pinned) 0xFFFF = .channel 23 3 ∧
    (settle pinned).channel? 22 = some { c22 with held := some 0 } ∧ (settle pinned).channel? 23 = some c23 ∧
    (settle pinned).group? 23 = some { immediate with pin := some pin0 } :=
  ⟨pinned_takes, by decide +kernel⟩

theorem witness_AnEnableTakeReplacesTheEnableSet : Takes (settle run) .A := run_takes .A
theorem witness_AnAckTakeClearsTheEventCausesItNames : Takes (settle run) .B := run_takes .B
theorem witness_AJreadTakeMovesRdWithinTheSpan :
    Takes (settle run) .A ∧
    ((0#7 - ((settle run).journals.get .A).rd).toNat ≤ (((settle run).journals.get .A).h - ((settle run).journals.get .A).rd).toNat) ∧
    ((((settle run).journals.get .A).h - ((settle run).journals.get .A).rd).toNat <
      (1#7 - ((settle run).journals.get .A).rd).toNat) :=
  ⟨run_takes .A, by decide +kernel⟩
theorem witness_ARearmTakeClearsTheHaltsItNames :
    Takes (settle halted) .A ∧
    (settle halted).channel? 22 = some { c22 with halted := true } :=
  ⟨halted_takes, by decide +kernel⟩
theorem loading_takes : Takes (settle { loading with cycle := some busyCycle }) .A := by simp only [Takes]; decide +kernel
theorem heldover_takes : Takes (settle { run with partState := .holdover }) .A := by simp only [Takes]; decide +kernel
theorem witness_ACommitRequestStartsOrIsRemembered :
    Takes (settle run) .A ∧ Takes (settle { run with partState := .holdover }) .A ∧
    Takes (settle { loading with cycle := some busyCycle }) .A ∧
    (settle run).configPort = .A ∧ (settle run).partState ≠ .holdover ∧
    (settle run).loader = .idle ∧ (0x00010000#32).extractLsb' 0 16 = 0#16 ∧ (0xFFFF#32).extractLsb' 0 16 ≠ 0#16 ∧
    (settle { run with partState := .holdover }).partState = .holdover ∧
    (settle { loading with cycle := some busyCycle }).loader = .reading (newLoad 1 0) :=
  ⟨run_takes .A, heldover_takes, loading_takes, by decide +kernel⟩

/-- A port whose access has no cycle. -/
def cycleless : State := withAccess run .A (.taken { userAccess false with outcome := .unmapped })
/-- An access outside the channel windows, or to no closing word, closes nothing. -/
theorem closesNothing_of (s : State) (t : Taken) (h : ∀ a, t.outcome = .channel a → a.closing = false) : ClosesNothing s t := by
  intro a c ha hc
  simp [h a ha] at hc
/-- A closing write that belongs to no open pass closes nothing (R10). -/
theorem closesNothing_of_producer (s : State) (t : Taken) (h : ∀ a, t.outcome = .channel a → a.side = .producer ∧
    ∀ c, s.channel? a.ch = some c → ∀ f, c.pass = some f → a.passSeq ≠ some f.seq) : ClosesNothing s t := by
  intro a c ha _ hc
  obtain ⟨h1, h2⟩ := h a ha
  rw [h1]
  exact fun _ f hf => h2 c hc f hf
theorem witness_AnAccessWithoutACycleCompletes :
    (settle cycleless).access .A = .taken { userAccess false with outcome := .unmapped } ∧
    (Decoded.unmapped).phys? = none ∧ ClosesNothing (settle cycleless) { userAccess false with outcome := .unmapped } ∧
    NoNewArrival (settle cycleless) .A { userAccess false with outcome := .unmapped } :=
  ⟨by decide +kernel, rfl, closesNothing_of _ _ (by intro a h; cases h), by intro h; cases h⟩
/-- The closing write of channel 22 dropped at its take, in a halted channel. -/
def droppedWrite : Taken :=
  { drive := Drive.write 0x4003 0xF 1
    outcome := .channel { ch := 22, side := .producer, steer := .nowhere, passSeq := none, closing := true }
    err := false
    withdrawn := false }
theorem witness_ADroppedClosingWriteCompletes :
    (settle (withAccess halted .A (.taken droppedWrite))).access .A = .taken droppedWrite ∧ droppedWrite.outcome.phys? = none ∧
    ClosesNothing (settle (withAccess halted .A (.taken droppedWrite))) droppedWrite :=
  ⟨by decide +kernel, rfl, closesNothing_of_producer _ _ (by
    intro a h; cases h; exact ⟨rfl, fun _ _ _ _ h => by cases h⟩)⟩
/-- Withdrawn, and REQ high again. -/
def requested : State := withAccess run .A (.taken { droppedWrite with withdrawn := true })
theorem witness_AnAccessWithoutACycleLetsTheNextArrive :
    (settle requested).access .A = .taken { droppedWrite with withdrawn := true } ∧
    ClosesNothing (settle requested) { droppedWrite with withdrawn := true } ∧ ((settle requested).ports.get .A).req = true :=
  ⟨by decide +kernel, closesNothing_of_producer _ _ (by intro a h; cases h; exact ⟨rfl, fun _ _ _ _ h => by cases h⟩),
    by decide +kernel⟩
/-- The same, withdrawn: REQ has fallen. -/
def withdrawn : State := after (.reqFall .A) cycleless
theorem witness_AnAccessWithoutACycleWithdrawn : (settle withdrawn).access .A =
      .taken { userAccess false with outcome := .unmapped, withdrawn := true } ∧
    ((settle withdrawn).ports.get .A).req = false ∧
    (∀ t, (settle withdrawn).access .A = .taken t → NoNewArrival (settle withdrawn) .A t) :=
  ⟨by decide +kernel, by decide +kernel, fun _ _ _ => by decide +kernel⟩
/-- The closing write of the SHED pass of channel 23. -/
def shedWrite : Taken :=
  { drive := Drive.write 0xFFFF 0xF 1
    outcome := .channel { ch := 23, side := .producer, steer := .nowhere, passSeq := some 1, closing := true }
    err := false
    withdrawn := false }
theorem witness_AShedPassClosesWithFillFault : (settle (withAccess filling .A (.taken shedWrite))).access .A = .taken shedWrite ∧
    (settle (withAccess filling .A (.taken shedWrite))).channel? 23 = some { c23 with pass := some passShed } ∧
    passShed.target = .shed ∧ shedWrite.withdrawn = false ∧ shedWrite.drive.wr = true := by decide +kernel
/-- The closing read of channel 23, served as zero. -/
def zeroRead : Taken :=
  { drive := Drive.read 0xFFFF
    outcome := .channel { ch := 23, side := .consumer, steer := .nowhere, passSeq := none, closing := true }
    err := false
    withdrawn := false }
theorem witness_AClosingReadClosesThePin : (settle (withAccess pinned .B (.taken zeroRead))).access .B = .taken zeroRead ∧
    (settle (withAccess pinned .B (.taken zeroRead))).channel? 23 = some c23 ∧ c23.desc.group = 23 ∧
    (settle (withAccess pinned .B (.taken zeroRead))).group? 23 = some { immediate with pin := some pin0 } ∧
    (settle (withAccess pinned .B (.taken zeroRead))).groupConsumer 23 = .B ∧ zeroRead.withdrawn = false := by decide +kernel
/-- The closing read of channel 23, served from its held buffer 1. -/
def heldRead : Taken :=
  { zeroRead with
    outcome := .channel { ch := 23, side := .consumer, steer := .buffer 1 0x1FFFF, passSeq := none, closing := true } }
/-- That read in its cycle, lane 0 in error if `bad`, under a pin tainted before if `tainted`. -/
def closingRead (tainted bad : Bool) : State :=
  { inCycle (running c22 { c23 with held := some 1 } { immediate with pin := some { pin0 with tainted := tainted } }) .B heldRead
      0x1FFFF with
    mem := { data := [], check := if bad then [(4 * 0x1FFFF, false)] else [] } }
theorem witness_AClosingReadOfAHeldBufferClosesThePin : ∀ x ∈ [false, true], ∀ y ∈ [false, true],
    (settle (closingRead x y)).cycle = some { use := .port .B, addr := 0x1FFFF, wr := false, lanes := 0, data := 0 } ∧
    (settle (closingRead x y)).access .B = .inCycle heldRead ∧
    (settle (closingRead x y)).channel? 23 = some { c23 with held := some 1 } ∧
    (settle (closingRead x y)).group? 23 = some { immediate with pin := some { pin0 with tainted := x } } ∧
    (settle (closingRead x y)).groupConsumer 23 = .B ∧
    (settle (closingRead x y)).mem.errors 0x1FFFF = (if y then 1 else 0) := by decide +kernel
/-- R48, R54: a read in error of the closing word gives PARITY, then PIN_TAINTED, and closes the pin. -/
theorem test_closing_read_in_error : ((after .memoryCycleEnd (closingRead false true)).group? 23).map (·.pin) = some none ∧
    ((after .memoryCycleEnd (closingRead false true)).journals.get .B).w = 2 ∧
    ((after .memoryCycleEnd (closingRead false true)).channel? 23).map (·.held) = some none := by decide +kernel
theorem witness_APortCycleCompletesItsAccess :
    (∀ wr s, ClosesNothing s (userAccess wr)) ∧ (userAccess true).withdrawn = false ∧
    (settle reading).cycle = some { use := .port .A, addr := 0xFFF, wr := false, lanes := 0xF, data := 5 } ∧
    (settle reading).access .A = .inCycle (userAccess false) ∧ (settle reading).mem.errors 0xFFF = 0 ∧
    (settle (inCycle run .A (userAccess true) 0xFFF)).access .A = .inCycle (userAccess true) ∧
    ((settle (inCycle run .A (userAccess true) 0xFFF)).cycle).map (·.wr) = some true :=
  ⟨fun wr s => closesNothing_of s _ (by intro a h; cases h), rfl, by decide +kernel⟩
/-- The closing write of a pass that has been aborted since, withdrawn, REQ high again. -/
def abortedWrite : State := inCycle run .A { closingWrite with withdrawn := true } 0x10007
theorem witness_APortCycleOfAnAbortedPassCompletes :
    (settle abortedWrite).access .A = .inCycle { closingWrite with withdrawn := true } ∧
    ((settle abortedWrite).cycle).map (fun c => (c.use, c.wr)) = some (.port .A, true) ∧
    ClosesNothing (settle abortedWrite) { closingWrite with withdrawn := true } ∧
    ((settle abortedWrite).ports.get .A).req = true := by
  refine ⟨by decide +kernel, by decide +kernel, closesNothing_of_producer _ _ ?_, by decide +kernel⟩
  intro a h
  cases h
  refine ⟨rfl, fun c hc f hf => ?_⟩
  have e : ((settle abortedWrite).channel? 22).map (·.pass) = some none := by decide +kernel
  rw [hc] at e
  simp only [Option.map_some, Option.some.injEq] at e
  rw [e] at hf
  cases hf
/-- A consumer read of channel 22's held buffer, not the closing word. -/
def bufferRead : Taken :=
  { drive := Drive.read 0x4000
    outcome := .channel { ch := 22, side := .consumer, steer := .buffer 0 0x10000, passSeq := none, closing := false }
    err := false
    withdrawn := false }
/-- That read in its cycle, lane 3 in error. -/
def readingBad : State :=
  { inCycle pinned .B bufferRead 0x10000 with mem := { data := [], check := [(4 * 0x10000 + 3, false)] } }
theorem witness_AReadInErrorIsReportedToItsReader :
    ClosesNothing (settle readingBad) bufferRead ∧ bufferRead.withdrawn = false ∧
    (settle readingBad).cycle = some { use := .port .B, addr := 0x10000, wr := false, lanes := 0, data := 0 } ∧
    (settle readingBad).access .B = .inCycle bufferRead ∧ bufferRead.outcome.phys? = some 0x10000 ∧
    (settle readingBad).mem.errors 0x10000 = 8#4 :=
  ⟨closesNothing_of _ _ (by intro a h; cases h; rfl), rfl, by decide +kernel⟩

/-- Channel 22's closing write in its cycle, the group in the given mode, the channels as given. -/
def closing (a b : Channel) (g : Group) : State :=
  inCycle (running { a with pass := some pass1, fillSeq := 1 } b g) .A closingWrite 0x10007
theorem witness_AClosingWriteInAnImmediateGroupPublishes :
    ((settle (closing c22 c23 immediate)).cycle).map (fun c => (c.use, c.wr)) = some (.port .A, true) ∧
    (settle (closing c22 c23 immediate)).access .A = .inCycle closingWrite ∧
    (settle (closing c22 c23 immediate)).channel? 22 = some { c22 with pass := some pass1, fillSeq := 1 } ∧
    (settle (closing c22 c23 immediate)).modeOfChannel c22 = some .immediate ∧ c22.pend = none ∧
    pass1.target = .buffer 1 := by decide +kernel
theorem witness_AClosingWriteInATimedGroupPends :
    ((settle (closing { c22 with pend := some pend0 } c23 timed)).cycle).map (fun c => (c.use, c.wr)) = some (.port .A, true) ∧
    (settle (closing { c22 with pend := some pend0 } c23 timed)).channel? 22 =
      some { c22 with pend := some pend0, pass := some pass1, fillSeq := 1 } ∧
    (settle (closing { c22 with pend := some pend0 } c23 timed)).modeOfChannel c22 = some .timed ∧
    (settle (closing { c22 with pend := some pend0 } c23 timed)).access .A = .inCycle closingWrite :=
  ⟨by decide +kernel, by decide +kernel⟩
theorem witness_AClosingWriteInAGatheredGroupGathers :
    ((settle (closing c22 c23 gathered)).cycle).map (fun c => (c.use, c.wr)) = some (.port .A, true) ∧
    (settle (closing c22 c23 gathered)).channel? 22 = some { c22 with pass := some pass1, fillSeq := 1 } ∧
    (settle (closing c22 c23 gathered)).group? 23 = some gathered ∧ gathered.desc.mode = some .gathered ∧
    (settle (closing c22 c23 gathered)).members 23 = [22, 23] ∧ (settle (closing c22 c23 gathered)).hasPending 23 = false ∧
    (settle (closing c22 c23 gathered)).access .A = .inCycle closingWrite :=
  ⟨by decide +kernel, by decide +kernel, by decide +kernel⟩
theorem witness_ACompleteGatherPublishesEveryMember :
    ((settle (closing c22 { c23 with pend := some pend0 } gathered)).cycle).map (fun c => (c.use, c.wr)) = some (.port .A, true) ∧
    (settle (closing c22 { c23 with pend := some pend0 } gathered)).channel? 22 = some { c22 with pass := some pass1, fillSeq := 1 } ∧
    (settle (closing c22 { c23 with pend := some pend0 } gathered)).group? 23 = some gathered ∧
    (∀ m ∈ (settle (closing c22 { c23 with pend := some pend0 } gathered)).members 23, m = 22 ∨
      (settle (closing c22 { c23 with pend := some pend0 } gathered)).hasPending m = true) ∧
    (settle (closing c22 { c23 with pend := some pend0 } gathered)).access .A = .inCycle closingWrite :=
  ⟨by decide +kernel, by decide +kernel, by decide +kernel⟩

/-- A Mirror write of slot 127 of journal B at its last cycle. -/
def slotLanding : State := { run with mirror := { run.mirror with
  flight := some { item := .slot .B 127, content := [1, 2, 3, 4], granted := 4, changed := false } } }
theorem witness_AMirrorItemCompletes : (settle slotLanding).cycle = some busyCycle ∧ busyCycle.use = .mirror ∧
    busyCycle.wr = true ∧ (settle slotLanding).mirror.flight =
      some { item := .slot .B 127, content := [1, 2, 3, 4], granted := 4, changed := false } ∧
    (MirrorItem.slot .B 127).cycles ≤ 4 ∧ ((settle { slotLanding with mirror := { slotLanding.mirror with
      flight := some { item := .slot .B 127, content := [1, 2, 3, 4], granted := 3, changed := false } } }).mirror.flight).map
        (fun f => decide (f.granted < f.item.cycles)) = some true := by decide +kernel

/-- A Loader read in progress after `k` table words. -/
def tableRead (k : Nat) (bad : Bool) : State := { run with
  loader := .reading { newLoad 1 0 with words := List.replicate k 0 }
  cycle := some (loaderCycle (ctl (tableAddr k)))
  mirror := Mirror.reset
  mem := { data := [], check := if bad then [(4 * tableAddr k, false)] else [] } }
/-- R114, R110: the reads at the ends of the tables, and the words of the last entries. -/
theorem witness_the_table_reads : [0, 1, 64, 65, 256, 257, 352].map tableAddr =
      [0x010, 0x040, 0x07F, 0x080, 0x13F, 0x140, 0x19F] ∧
    (newSet.region 15).w3 = newSet.words.getD 64 0 ∧ (newSet.chan 23).w7 = newSet.words.getD 256 0 ∧
    (newSet.group 23).w3 = newSet.words.getD 352 0 ∧ newSet.walksTo 23 2 = true := by decide +kernel
theorem witness_ATableReadIsKeptOrEndsTheLoad :
    (settle (tableRead 0 false)).loader = .reading (newLoad 1 0) ∧ (settle (tableRead 0 false)).mem.errors 0x010 = 0 ∧
    (settle (tableRead 352 true)).loader = .reading { newLoad 1 0 with words := List.replicate 352 0 } ∧
    (settle (tableRead 352 true)).mem.errors 0x19F = 1#4 ∧
    (settle (tableRead 352 true)).cycle = some { use := .loader, addr := 0x19F, wr := false, lanes := 0xF, data := 0 } := by
  decide +kernel
/-- The last read of `newSet`'s words, with the channels and groups given. -/
def lastRead (ws : List Word) : State := { tableRead 352 false with loader := .reading { newLoad 5 0 with words := ws } }
/-- A load after the tables, with channel 0 to be resumed, after `k` resume reads, the next one in progress. -/
def resumeRead (k : Nat) : State := { tableRead 0 false with
  loader := .reading { setOf immediate 4 with cands := [0], resume := List.replicate k (0x700, true) } }
theorem witness_TheLastReadIsValidated :
    (settle (lastRead (newSet.words.take 352))).loader = .reading { newLoad 5 0 with words := newSet.words.take 352 } ∧
    (newSet.words.take 352).length + 1 = 353 ∧
    pickCandidates run { newLoad 5 0 with words := newSet.words.take 352 ++ [0] } = [] ∧
    (settle (lastRead (newSet.words.take 352))).mem.errors 0x19F = 0 ∧
    ({ newLoad 5 0 with words := newSet.words.take 352 ++ [0], cands := [] } : Load).validate (fittedWords 3) = none ∧
    ({ newLoad 5 0 with words := newSet.words.take 352 ++ [0], cands := [] } : Load).validate (fittedWords 0) =
      some (.beyondFitted, { table := .channel, index := 22 }) ∧
    pickCandidates run { newLoad 5 0 with words := (setOf immediate 4).words.take 352 ++ [0] } = [0] := by
  decide +kernel
theorem witness_TheLastResumeReadIsValidated :
    (settle (resumeRead 0)).loader = .reading { setOf immediate 4 with cands := [0], resume := [] } ∧
    (settle (resumeRead 1)).loader = .reading { setOf immediate 4 with cands := [0], resume := [(0x700, true)] } ∧
    353 ≤ (setOf immediate 4).words.length ∧ ((settle (resumeRead 0)).cycle).map (fun c => (c.use, c.wr)) = some (.loader, false) ∧
    ((settle (resumeRead 1)).cycle).map (fun c => (c.use, c.wr)) = some (.loader, false) := by decide +kernel

theorem witness_AnEdgeOfTclkCountsAndTicks : (settle run).pins.rstN = true ∧
    (settle run).divisor ≤ (settle run).prescaler + 1 ∧
    (settle { run with divisor := 256, prescaler := 254 }).prescaler + 1 < 256 ∧
    (settle State.reset).pins.rstN = false := by decide +kernel
/-- Channel 22's fill deadline reached across the wrap of the clock. -/
def expiring : State := { running
  { c22 with pass := some { pass1 with deadline := some { start := 0xFFFFFFFE, limit := 5 } } } c23 immediate with clock := 3 }
theorem witness_AFillExpiryAbortsThePass : expiring.channel? 22 =
      some { c22 with pass := some { pass1 with deadline := some { start := 0xFFFFFFFE, limit := 5 } } } ∧
    expiring.clock - 0xFFFFFFFE#32 = (5#16).setWidth 32 := by decide +kernel
theorem witness_AFreshnessDeadlineMakesTheChannelStale : { run with clock := 7 }.partState ≠ .holdover ∧
    { run with clock := 7 }.channel? 22 = some c22 ∧ c22.freshDl = some { start := 0, limit := 7 } ∧
    { run with clock := 7 }.clock - 0#32 = (7#16).setWidth 32 := by decide +kernel
theorem witness_AHoldDeadlineReleasesThePin : { pinned with clock := 3 }.group? 23 = some { immediate with pin := some pin0 } ∧
    { pinned with clock := 3 }.clock - 0#32 = (3#16).setWidth 32 := by decide +kernel
/-- A gather due, one of two members pending. -/
def gatherDueNow : State := { running { c22 with pend := some pend0 } c23
  { gathered with gather := some { start := 0, deadline := some { start := 0, limit := 6 } } } with clock := 6 }
theorem witness_AGatherDeadlinePublishesThePendingMembers : gatherDueNow.group? 23 =
      some { gathered with gather := some { start := 0, deadline := some { start := 0, limit := 6 } } } ∧
    gatherDueNow.clock - 0#32 = (6#16).setWidth 32 := by decide +kernel
/-- A frame due. -/
def frameDueNow : State := { running { c22 with pend := some pend0 } c23 { timed with nextFrame := some 4 } with clock := 4 }
theorem witness_AFrameTickPublishesThePendingMembers : frameDueNow.partState = .running ∧
    frameDueNow.group? 23 = some { timed with nextFrame := some 4 } ∧ timed.desc.mode = some .timed ∧
    frameDueNow.clock = 4 := by decide +kernel

/-- A journal with `n` unread records and lost count `l`. -/
def journalOf (n : Nat) (l : BitVec 16) : State :=
  { run with journals := { run.journals with a := { Journal.reset with w := BitVec.ofNat 7 n, lost := l } } }
theorem witness_AnOfferIsWrittenOrCountedAsLost :
    [journalOf 126 0, journalOf 127 0, journalOf 125 1, journalOf 126 1, journalOf 127 0xFFFF].map (fun s =>
      ((s.journals.get .A).lost, 127 - ((s.journals.get .A).w - (s.journals.get .A).rd).toNat)) =
    [(0#16, 1), (0#16, 0), (1#16, 2), (1#16, 1), (0xFFFF#16, 0)] := by decide +kernel

theorem witness_AnInstallTakesTheNewSettings : draining.loader = .draining newSet ∧ draining.inFlight? .A = none ∧
    draining.inFlight? .B = none ∧ (newSet.region 1).valid = false ∧ (newSet.region 15).valid = false ∧
    (newSet.region 2).valid = true ∧ (newSet.region 2).rightsA = some .readWrite ∧ (newSet.region 2).rightsB = some .read := by
  decide +kernel
theorem witness_AnInstallCarriesCreatesAndEnds : (newSet.chan 1).valid = false ∧ (newSet.chan 22).valid = true ∧
    (newSet.chan 22).sameBody c22.desc = true ∧ draining.channel? 22 = some c22 ∧ (newSet.chan 0).valid = true ∧
    draining.channel? 0 = none ∧ (newSet.group 1).valid = false ∧ draining.group? 23 = some immediate ∧
    carriesGroup draining newSet 23 = true ∧ (newSet.group 0).valid = true ∧ carriesGroup draining newSet 0 = false := by
  decide +kernel
theorem witness_AnInstallEndsAGroup : regrouping.loader = .draining regroupSet ∧ regrouping.inFlight? .A = none ∧
    regrouping.inFlight? .B = none ∧ (regroupSet.chan 22).sameBody c22.desc = true ∧
    carriesGroup regrouping regroupSet 23 = false ∧ (regroupSet.group 23).valid = true ∧
    ((regrouping.group? 23).bind (·.pin)).isSome = true ∧ releasesPinOf regrouping regroupSet .B = true ∧
    (installRecords regrouping regroupSet .A).length = 2 ∧ (installRecords regrouping regroupSet .B).length = 2 := by
  decide +kernel
/-- A table set with nothing valid in it: every channel and group ends. -/
def emptySet : Load := { setOf immediate 0 with words := 0x609#32 :: List.replicate 352 0 }

/-- `emptySet` DRAINING, the blocks of channel 22 and of group 23 waiting. -/
def emptying : State := { run with
  loader := .draining emptySet
  mirror := { run.mirror with dirty := [.chanBlock 22, .groupBlock 23] } }
theorem witness_AnInstallEndsEverything : emptying.loader = .draining emptySet ∧ emptying.inFlight? .A = none ∧
    emptying.inFlight? .B = none ∧ (emptying.channel? 22).isSome = true ∧ (emptySet.chan 22).valid = false ∧
    (emptying.group? 23).isSome = true ∧ (emptySet.group 23).valid = false ∧ emptying.channel? 0 = none ∧
    (emptySet.chan 0).valid = false ∧ emptying.group? 0 = none ∧ (emptySet.group 0).valid = false ∧
    emptySet.validate (fittedWords 3) = none := by decide +kernel
/-- R126, R128: the dirty blocks of what ends become clean without being written. -/
theorem test_install_cleans_ended_blocks : (after .install emptying).mirror.dirty.contains (.chanBlock 22) = false ∧
    (after .install emptying).mirror.dirty.contains (.groupBlock 23) = false := by decide +kernel

/-! ### What validation refuses -/

/-- `newSet` with words replaced. -/
def changedSet (ps : List (Nat × Word)) : Load :=
  { newSet with words := ps.foldl (fun ws p => ws.set p.1 p.2) newSet.words }

/-- R117: one set for each step: a fault-signal code 11b, a region of length 0, a channel of depth 5, a group of mode 00b, a
chain that returns to its first member, a channel outside the chain of its group, a chain of two producers, a window over
another, a buffer over another, a buffer beyond the fitted size. -/
theorem test_each_step_refuses :
    ((changedSet [(0, 0xF00)]).refuses 131072 .parameter = some (.badParam, { table := .parameter, index := 0 })) ∧
    ((changedSet [(11, 0)]).refuses 131072 (.region 2) = some (.badRegion, { table := .region, index := 2 })) ∧
    ((changedSet [(65, 0x1F0015)]).refuses 131072 (.channel 0) = some (.badChannel, { table := .channel, index := 0 })) ∧
    ((changedSet [(257, 1)]).refuses 131072 (.group 0) = some (.badGroup, { table := .group, index := 0 })) ∧
    ((changedSet [(249, 0x00161709)]).refuses 131072 (.walk 23) = some (.chainBroken, { table := .group, index := 23 })) ∧
    ((changedSet [(65, 0x001F1709)]).refuses 131072 (.visit 0) = some (.chainBroken, { table := .channel, index := 0 })) ∧
    ((changedSet [(249, 0x001F170B)]).refuses 131072 (.producers 23) = some (.mixedProducer, { table := .group, index := 23 })) ∧
    ((changedSet [(66, 0x20FF)]).refuses 131072 (.window 16) = some (.logicalOverlap, { table := .channel, index := 0 })) ∧
    ((changedSet [(68, 0x10007)]).refuses 131072 (.buffer 22 1) = some (.physicalOverlap, { table := .channel, index := 22 })) ∧
    (newSet.refuses 0x10003 (.buffer 22 0) = some (.beyondFitted, { table := .channel, index := 22 })) := by decide +kernel
theorem test_each_step_is_validated :
    (changedSet [(249, 0x00161709)]).validate 131072 = some (.chainBroken, { table := .group, index := 23 }) ∧
    (changedSet [(65, 0x001F1709)]).validate 131072 = some (.chainBroken, { table := .group, index := 0 }) ∧
    (changedSet [(249, 0x001F170B)]).validate 131072 = some (.mixedProducer, { table := .group, index := 23 }) ∧
    (changedSet [(66, 0x20FF)]).validate 131072 = some (.logicalOverlap, { table := .channel, index := 0 }) ∧
    (changedSet [(68, 0x10007)]).validate 131072 = some (.physicalOverlap, { table := .channel, index := 22 }) ∧
    newSet.validate 0x10003 = some (.beyondFitted, { table := .channel, index := 22 }) := by decide +kernel

/-- R128: the install that ends a group drops its pending buffer and releases its pin. -/
theorem test_install_ends_a_group : ((after .install regrouping).channel? 22).map (·.pend) = some none ∧
    ((after .install regrouping).channel? 23).map (·.held) = some none ∧
    ((after .install regrouping).journals.get .B).w = 2 := by decide +kernel

/-- A pass open, the M port free, and the fall of RST_N next in the queue. -/
def fillingToReset : State := { filling with pending := [.resetAssert], cycle := none, mirror := { filling.mirror with flight := none } }
theorem witness_AFallOfPfailStartsHoldover : (settle filling).pins.rstN = true ∧ (settle filling).partState ≠ .holdover ∧
    (settle filling).loader = .idle ∧ (settle filling).access .A = .idle ∧ (settle filling).access .B = .idle ∧
    (settle { loading with cycle := some busyCycle }).loader = .reading (newLoad 1 0) ∧
    (settle drainingHeld).loader = .draining newSet ∧ filling.pending.head? ≠ some .resetAssert := by decide +kernel
theorem witness_AFallOfPfailComesWithAFallOfRst : fillingToReset.pending = .resetAssert :: [] ∧
    settled fillingToReset = true ∧ settled (settle fillingToReset) = true ∧ (settle fillingToReset).pins.rstN = true ∧
    (settle fillingToReset).partState ≠ .holdover ∧ State.reset.pins.rstN = false ∧
    (settle { run with partState := .holdover }).partState = .holdover := by decide +kernel
/-- R172: at the fall of PFAIL_N alone the M port, free until then, is granted to the Engine; where RST_N falls with it, it
stays free. -/
theorem test_holdover_grant : granted (settle fillingToReset) = none ∧
    granted (ungranted powerFails (settle fillingToReset)) = some .engine ∧
    after .holdoverStart { fillingToReset with pending := [] } =
      grant (ungranted powerFails (settle { fillingToReset with pending := [] })) ∧
    (after .holdoverStart fillingToReset).cycle = none ∧ (after .holdoverStart fillingToReset).partState = .holdover :=
  ⟨by decide +kernel, by decide +kernel, rfl, by decide +kernel, by decide +kernel⟩
/-- R172: "Holdover begins, and the reset then discards it": memory is as it was, and the part is the one that the reset would
leave without the holdover. -/
theorem test_holdover_discarded :
    after .resetAssert (after .holdoverStart fillingToReset) =
      after .resetAssert { fillingToReset with pins := { fillingToReset.pins with pfailN := false } } ∧
    (after .resetAssert (after .holdoverStart fillingToReset)).mem = fillingToReset.mem := by decide +kernel
/-- R172: both orders of the two falls leave one state, but for the lines of the requesters, which the rise sets anew. -/
theorem test_both_orders : after .holdoverStart { after .resetAssert fillingToReset with pending := [] } =
    { after .resetAssert { after .holdoverStart fillingToReset with pending := [] } with
      requestLines := { a := false, b := false, engine := true } } := by decide +kernel
theorem witness_HoldoverRecordsGoInOrder : (settle filling).pins.rstN = true ∧ (settle filling).partState ≠ .holdover ∧
    (settle drainingHeld).pins.rstN = true ∧ (settle drainingHeld).partState ≠ .holdover ∧
    (settle drainingHeld).loader = .draining newSet := by decide +kernel
theorem witness_AFallOfRstResetsEveryBlock : (settle filling).pins.rstN = true := by decide +kernel
theorem witness_ARiseOfRstSamplesTheStraps : State.reset.pins.rstN = false ∧ (State.reset.ports.get .A).req = false ∧
    (State.reset.ports.get .B).req = false ∧ State.reset.partState = .unconfigured ∧ State.reset.loader = .idle ∧
    State.reset.access .A = .idle ∧ State.reset.access .B = .idle := by decide +kernel

/-- REQ of port A is high while RST_N is low, with a write to the last user word driven. -/
def requestedInReset : State :=
  { State.reset with ports := State.reset.ports.modify .A fun q => { q with req := true, inputs := writeFFF } }
theorem witness_ARiseOfRstTakesAnArrival : requestedInReset.pins.rstN = false ∧ requestedInReset.access .A = .idle ∧
    requestedInReset.access .B = .idle ∧ (requestedInReset.ports.get .A).req = true ∧
    (requestedInReset.ports.get .B).req = false ∧ requestedInReset.partState = .unconfigured ∧
    requestedInReset.loader = .idle ∧
    settled { requestedInReset with
      pins := { rstN := true, pfailN := true, msz := 3, cfgp := false }
      msz := 3
      configPort := .A
      requestLines := { a := true, b := true, engine := true }
      ports := requestedInReset.ports.modify .A fun q => { q with req := false } } = true := by decide +kernel
/-- R92, R107: the access that waits at the rise is granted before the first Mirror write. -/
theorem test_arrival_at_the_rise : ((after (.resetRelease 3 false false) requestedInReset).cycle).map (·.use) =
      some (.port .A) ∧ (after (.resetRelease 3 false true) requestedInReset).partState = .holdover ∧
    ((after (.resetRelease 3 false true) requestedInReset).inFlight? .A).isSome = true := by decide +kernel

/-! ### The laws hold somewhere beyond reset -/

theorem running_channel? {a b : Channel} {g : Group} {n : Nat} {c : Channel} (h : (running a b g).channel? n = some c) :
    (n = 22 ∧ c = a) ∨ (n = 23 ∧ c = b) := by
  have hn := State.channel?_lt h
  interval_cases n <;> simp [State.channel?, running] at h <;> simp [h]

theorem running_group? {a b : Channel} {g : Group} {n : Nat} {c : Group} (h : (running a b g).group? n = some c) :
    n = 23 ∧ c = g := by
  have hn := State.group?_lt h
  interval_cases n <;> simp [State.group?, running] at h
  simp [h]

theorem running_keeps_members (s : State) (a b : Channel) (g : Group) (hc : s.channels = (running a b g).channels)
    (hg : s.groups = (running a b g).groups) (n : Nat) : s.channel? n = (running a b g).channel? n ∧
      s.group? n = (running a b g).group? n ∧ s.members n = (running a b g).members n := by
  have h1 : s.channel? = (running a b g).channel? := by funext k; simp [State.channel?, hc]
  have h2 : s.group? = (running a b g).group? := by funext k; simp [State.group?, hg]
  have h3 : s.nextOf = (running a b g).nextOf := by funext k; simp only [State.nextOf, h1]
  exact ⟨congrFun h1 n, congrFun h2 n, by simp only [State.members, h2, h3]⟩

/-- A state with the channels and the group of `running` meets the chain law. -/
theorem running_chainLaw {s : State} {a b : Channel} {g : Group} (hc : s.channels = (running a b g).channels)
    (hg : s.groups = (running a b g).groups)
    (hl : ∀ l, s.loader = .draining l → ∃ fitted, l.validate fitted = none) (hm : s.members 23 = [22, 23])
    (ha : a.desc.group = 23 ∧ a.desc.producer = s.groupProducer 23)
    (hb : b.desc.group = 23 ∧ b.desc.producer = s.groupProducer 23)
    (hn : g.desc.first = 22 ∧ a.desc.nextMember = 23 ∧ b.desc.nextMember = 31) : ChainLaw s := by
  have h22 : s.channel? 22 = some a := by simp [State.channel?, hc, running]
  have h23 : s.channel? 23 = some b := by simp [State.channel?, hc, running]
  refine ⟨?_, ?_, hl⟩
  · intro n gr h
    rw [(running_keeps_members s a b g hc hg n).2.1] at h
    obtain ⟨rfl, rfl⟩ := running_group? h
    rw [hm]
    refine ⟨by simp [hn.1], ?_, by decide, ?_⟩
    · rintro (_ | _ | k) m h <;> simp only [List.getElem?_cons_zero, List.getElem?_cons_succ, List.getElem?_nil] at h
      · cases h; exact ⟨a, h22, by simp [hn.2.1]⟩
      · cases h; exact ⟨b, h23, by simp [hn.2.2]⟩
      · cases h
    intro m hmem
    simp only [List.mem_cons, List.not_mem_nil, or_false] at hmem
    rcases hmem with rfl | rfl
    · exact ⟨a, h22, ha⟩
    · exact ⟨b, h23, hb⟩
  · intro n c h
    rw [(running_keeps_members s a b g hc hg n).1] at h
    rcases running_channel? h with ⟨rfl, rfl⟩ | ⟨rfl, rfl⟩
    · rw [ha.1, hm]; simp
    · rw [hb.1, hm]; simp

theorem witness_ChainLaw_at_a_gather_deadline : ChainLaw gatherDueNow :=
  running_chainLaw rfl rfl (by intro l h; cases h) (by decide +kernel) (by decide +kernel) (by decide +kernel)
    (by decide +kernel)
theorem witness_ChainLaw_at_a_frame_tick : ChainLaw frameDueNow :=
  running_chainLaw rfl rfl (by intro l h; cases h) (by decide +kernel) (by decide +kernel) (by decide +kernel)
    (by decide +kernel)
theorem witness_ChainLaw_at_a_complete_gather : ChainLaw (settle (closing c22 { c23 with pend := some pend0 } gathered)) := by
  have e : settle (closing c22 { c23 with pend := some pend0 } gathered) = closing c22 { c23 with pend := some pend0 } gathered := by
    decide +kernel
  rw [e]
  exact running_chainLaw (a := { c22 with pass := some pass1, fillSeq := 1 }) rfl rfl (by intro l h; cases h)
    (by decide +kernel) (by decide +kernel) (by decide +kernel) (by decide +kernel)
theorem witness_AGatherDeadlinePublishesThePendingMembers_with_its_chain : ChainLaw gatherDueNow ∧
    gatherDueNow.group? 23 =
      some { gathered with gather := some { start := 0, deadline := some { start := 0, limit := 6 } } } ∧
    gatherDueNow.clock - 0#32 = (6#16).setWidth 32 :=
  ⟨witness_ChainLaw_at_a_gather_deadline, witness_AGatherDeadlinePublishesThePendingMembers⟩
theorem witness_AFrameTickPublishesThePendingMembers_with_its_chain : ChainLaw frameDueNow ∧
    frameDueNow.partState = .running ∧ frameDueNow.group? 23 = some { timed with nextFrame := some 4 } ∧
    timed.desc.mode = some .timed ∧ frameDueNow.clock = 4 :=
  ⟨witness_ChainLaw_at_a_frame_tick, witness_AFrameTickPublishesThePendingMembers⟩
/-- Every TIMED group of a state like `running` has a period, and nothing drains. -/
theorem running_frameLaw {s : State} {a b : Channel} {g : Group} (hc : s.channels = (running a b g).channels)
    (hg : s.groups = (running a b g).groups) (hl : ∀ l, s.loader ≠ .draining l) (hp : g.desc.period ≠ 0) : FrameLaw s := by
  refine ⟨?_, fun l h => absurd h (hl l)⟩
  intro n gr h _
  rw [(running_keeps_members s a b g hc hg n).2.1] at h
  obtain ⟨rfl, rfl⟩ := running_group? h
  exact hp
theorem witness_EveryStepKeepsTheChainLaw : ChainLaw { run with pending := [.tick] } ∧
    FrameLaw { frameDueNow with pending := [.tick] } ∧ (∃ t, step { run with pending := [.tick] } = .next t) ∧
    (∃ t, step { frameDueNow with pending := [.tick] } = .next t) :=
  ⟨running_chainLaw (a := c22) (b := c23) (g := immediate) rfl rfl (by intro l h; cases h) (by decide +kernel)
    (by decide +kernel) (by decide +kernel) (by decide +kernel),
    running_frameLaw rfl rfl (by intro l h; cases h) (by decide +kernel), ⟨_, rfl⟩, ⟨_, rfl⟩⟩
/-- R60, R63: the frame tick is due; settling makes it, and nothing is due then. -/
theorem witness_SettlingActsOnWhatIsDue : FrameLaw frameDueNow ∧ dueEvents frameDueNow = [.frameTick 23] ∧
    Due frameDueNow (.frameTick 23) ∧ settled (settle frameDueNow) = true ∧
    settle frameDueNow = after (.frameTick 23) frameDueNow :=
  ⟨running_frameLaw rfl rfl (by intro l h; cases h) (by decide +kernel), by decide +kernel,
    ⟨rfl, _, rfl, by decide +kernel, rfl⟩, by decide +kernel, by decide +kernel⟩

theorem witness_ChainLaw_at_an_install : ChainLaw draining ∧ ChainLaw regrouping := by
  have v : newSet.validate (fittedWords 3) = none ∧ regroupSet.validate (fittedWords 3) = none := by decide +kernel
  refine ⟨running_chainLaw (a := c22) (b := c23) (g := immediate) rfl rfl ?_ (by decide +kernel) (by decide +kernel)
      (by decide +kernel) (by decide +kernel),
    running_chainLaw (a := { c22 with pend := some pend0 }) (b := { c23 with held := some 1 })
      (g := { immediate with pin := some pin0 }) rfl rfl ?_ (by decide +kernel) (by decide +kernel) (by decide +kernel)
      (by decide +kernel)⟩
  · intro l h; cases h; exact ⟨_, v.1⟩
  · intro l h; cases h; exact ⟨_, v.2⟩

/-- A command waits and the memory holds a byte. -/
def kept : State := { run with pending := [.tick], mem := { data := [(3, 1#8)], check := [(3, false)] } }
theorem witness_EveryStepKeepsMemoryPrescalerAndMirrorOrder : MemoryLaw kept ∧ PrescalerLaw kept ∧
    MirrorOrderLaw { mirroring [.report .A] none with pending := [.tick] } ∧ (∃ t, step kept = .next t) ∧
    (∃ t, step { mirroring [.report .A] none with pending := [.tick] } = .next t) :=
  ⟨by simp only [MemoryLaw]; decide +kernel, by simp only [PrescalerLaw]; decide +kernel, mirroring_order [.report .A] none,
    ⟨_, rfl⟩, ⟨_, rfl⟩⟩

/-- Port A's line asserted for cause 11. -/
def calling : State := { run with
  pending := [.tick]
  attention := { run.attention with a := { latched := 0, enable := 0x800, repSeq := 1, reported := 0x801, line := true } } }
theorem witness_EveryStepKeepsTheLineLaw : LineLaw calling ∧ (∃ t, step calling = .next t) := by
  refine ⟨?_, _, rfl⟩
  rintro (_ | _)
  · exact ⟨fun _ => ⟨11, by decide +kernel, by decide +kernel⟩, fun _ => rfl⟩
  · simp [calling, run, running, bare, State.reset, Both.get, Attention.reset]

/-- Channel 22 with live buffer 0, a pass on buffer 1 and buffer 0 held. -/
def roles : Channel := { c22 with live := some 0, pass := some pass1, held := some 0 }
theorem roles_law : roles.roleLaw ∧ c23.roleLaw := by
  have h1 : roles.filling = some 1 ∧ roles.pendBuf = none ∧ roles.live = some 0 ∧ roles.held = some 0 ∧ roles.desc.depth = 2 := by
    decide +kernel
  have h2 : c23.filling = none ∧ c23.pendBuf = none ∧ c23.live = none ∧ c23.held = none := by decide +kernel
  obtain ⟨a1, a2, a3, a4, a5⟩ := h1
  obtain ⟨b1, b2, b3, b4⟩ := h2
  constructor
  · simp [Channel.roleLaw, a1, a2, a3, a4, a5]
  · simp [Channel.roleLaw, b1, b2, b3, b4]
theorem witness_EveryStepKeepsTheRoleLaw : RoleLaw { running roles c23 immediate with pending := [.tick] } ∧
    (∃ t, step { running roles c23 immediate with pending := [.tick] } = .next t) := by
  refine ⟨?_, _, rfl⟩
  intro n c h
  rcases running_channel? (a := roles) (b := c23) (g := immediate) h with ⟨rfl, rfl⟩ | ⟨rfl, rfl⟩
  · exact roles_law.1
  · exact roles_law.2

/-- HOLDOVER with a pending buffer kept. -/
def inHoldover : State :=
  { running { c22 with pend := some pend0 } c23 gathered with partState := .holdover, pending := [.resetAssert] }
theorem witness_HoldoverStopsEveryImage : HoldoverLaw inHoldover ∧ inHoldover.partState = .holdover ∧
    (∃ t, step inHoldover = .next t) := by
  refine ⟨⟨fun _ => rfl, fun _ => ⟨?_, ?_, rfl⟩⟩, rfl, _, rfl⟩
  · intro n c h
    rcases running_channel? (a := { c22 with pend := some pend0 }) (b := c23) (g := gathered) h with ⟨_, rfl⟩ | ⟨_, rfl⟩ <;> rfl
  · intro n c h
    obtain ⟨_, rfl⟩ := running_group? (a := { c22 with pend := some pend0 }) (b := c23) (g := gathered) h
    rfl

/-- One record in journal A: its slot waits, then the head word; journal B's head word is in flight. -/
def recorded : State := { bare with
  pending := [.memoryCycleEnd]
  journals := { bare.journals with a := { Journal.reset with w := 1 } }
  mirror := { Mirror.reset with
    dirty := [.slot .A 0]
    flight := some { item := .head .B, content := [0], granted := 1, changed := false } } }
theorem witness_EveryStepKeepsTheJournalLaw : JournalLaw recorded ∧ (∃ t, step recorded = .next t) := by
  refine ⟨⟨?_, ?_⟩, _, rfl⟩
  · intro f h
    cases h
    exact ⟨by decide, by decide, fun _ => ⟨busyCycle, rfl, rfl⟩⟩
  · rintro (_ | _)
    · refine ⟨by decide, by decide, ?_, ?_, ?_⟩
      · intro k
        have e : slotWaits recorded .A k ↔ k = 0 := by
          simp [slotWaits, recorded]
        rw [e]
        clear e
        revert k
        decide +kernel
      · intro f k h hk; cases h; cases hk
      · intro f h hk; cases h; cases hk
    · refine ⟨by decide, by decide, ?_, ?_, ?_⟩
      · intro k
        have e : ¬ slotWaits recorded .B k := by
          simp [slotWaits, recorded]
        simp only [e, false_iff]
        clear e
        revert k
        decide +kernel
      · intro f k h hk; cases h; cases hk
      · intro f h _; cases h; exact ⟨by decide, by decide⟩

theorem witness_EveryStepKeepsTheFittedLaw : FittedLaw { run with pending := [.tick] } ∧
    (∃ t, step { run with pending := [.tick] } = .next t) := by
  have hr : c22.roleLaw ∧ c23.roleLaw := by
    have h1 : c22.filling = none ∧ c22.pendBuf = none ∧ c22.live = none ∧ c22.held = none := by decide +kernel
    obtain ⟨a1, a2, a3, a4⟩ := h1
    exact ⟨by simp [Channel.roleLaw, a1, a2, a3, a4], roles_law.2⟩
  have hb : (∀ k, k < c22.desc.depth → (c22.desc.base k).toNat + c22.desc.len ≤ fittedWords 3) ∧
      (∀ k, k < c23.desc.depth → (c23.desc.base k).toNat + c23.desc.len ≤ fittedWords 3) := by decide +kernel
  have hd : c22.desc.depth ≤ 4 ∧ c23.desc.depth ≤ 4 := by decide +kernel
  refine ⟨⟨?_, ?_, ?_, ?_, ?_, ?_, ?_, ?_, ?_⟩, _, rfl⟩
  · intro c h; cases h; decide +kernel
  · rintro (_ | _) t a h <;> cases h
  · intro n c h
    rcases running_channel? (a := c22) (b := c23) (g := immediate) h with ⟨_, rfl⟩ | ⟨_, rfl⟩
    · exact ⟨hr.1, hd.1, hb.1⟩
    · exact ⟨hr.2, hd.2, hb.2⟩
  · intro r g h
    have hlt : r < 16 := State.region?_lt h
    interval_cases r <;> simp [State.region?, run, running] at h
    subst h
    decide +kernel
  · intro l h; cases h
  · intro l h; cases h
  · intro i h; cases h
  · intro f h; cases h; simp [MirrorItem.inArea, busyFlight]
  · intro h; cases h

end Sys2Proof.Tests
end

namespace Sys2Proof.Machine

/-! SUPPORT. What each operation does to the channels (most leave them alone), and the law of the buffer roles in one
channel (R2, R4 to R6, R11, R19, R44). -/

/-! ### The vectors of an install -/

/-- A list that is filled from the front: what place `n` holds once the places of `is` have been written. -/
theorem getElem?_foldl_setIfInBounds {α : Type} {k : Nat} (f : Nat → Option α) (is : List Nat)
    (v : Vector (Option α) k) (n : Nat) :
    (is.foldl (fun v i => v.setIfInBounds i (f i)) v)[n]? = if n < k ∧ n ∈ is then some (f n) else v[n]? := by
  induction is generalizing v with
  | nil => simp
  | cons i rest ih =>
    rw [List.foldl_cons, ih, Vector.getElem?_setIfInBounds]
    by_cases hi : i = n
    · subst hi
      by_cases hk : i < k
      · simp [hk]
      · simp [hk]
    · simp [hi, Ne.symm hi]

theorem getElem?_fillVector {α : Type} (k : Nat) (f : Nat → Option α) (n : Nat) :
    (fillVector k f)[n]? = if n < k then some (f n) else none := by
  unfold fillVector
  rw [getElem?_foldl_setIfInBounds]
  by_cases h : n < k
  · simp [h]
  · simp [h]

@[simp] theorem channel?_takeNewSet (l : Load) (s0 s : State) (n : Nat) :
    (takeNewSet l s0 s).channel? n = if n < 24 then newChannel l s0 s n else none := by
  have h : (takeNewSet l s0 s).channel? n = ((fillVector 24 (newChannel l s0 s))[n]?).getD none := rfl
  rw [h, getElem?_fillVector]
  split <;> rfl

@[simp] theorem group?_takeNewSet (l : Load) (s0 s : State) (g : Nat) :
    (takeNewSet l s0 s).group? g = if g < 24 then newGroup l s0 s g else none := by
  have h : (takeNewSet l s0 s).group? g = ((fillVector 24 (newGroup l s0 s))[g]?).getD none := rfl
  rw [h, getElem?_fillVector]
  split <;> rfl

/-! ### What leaves the channels as they are -/

@[simp] theorem channels_offerBoth (s : State) (r : Record) : (s.offerBoth r).channels = s.channels := by
  simp only [State.offerBoth, State.offer_channels]

@[simp] theorem channels_noteReports (b s : State) : (noteReports b s).channels = s.channels := by
  unfold noteReports noteReport
  split <;> split <;> rfl

@[simp] theorem channels_event (f : State → State) (s : State) : (event f s).channels = (f s).channels :=
  channels_noteReports s (f s)

@[simp] theorem channels_ungranted (f : State → State) (s : State) : (ungranted f s).channels = (f s).channels :=
  channels_noteReports s (f s)

@[simp] theorem channels_startGather (g : Nat) (s : State) : (startGather g s).channels = s.channels := by
  unfold startGather
  split
  · split <;> rfl
  · rfl

@[simp] theorem channels_endGather (g : Nat) (s : State) : (endGather g s).channels = s.channels := rfl

@[simp] theorem channels_cancelGather (s : State) (g : Nat) : (cancelGather s g).channels = s.channels := by
  unfold cancelGather
  split <;> rfl

@[simp] theorem channels_supersede (n : Nat) (c : Channel) (s : State) : (supersede n c s).channels = s.channels := by
  unfold supersede
  split
  · exact State.offer_channels _ _ _
  · rfl

@[simp] theorem channels_taintPin (g : Nat) (s : State) : (taintPin g s).channels = s.channels := by
  unfold taintPin
  split
  · rfl
  · split <;> rfl

@[simp] theorem channels_violate (p : Port) (d : Drive) (k : ViolationKind) (n : Nat) (r : Option Nat) (s : State) :
    (violate p d k n r s).channels = s.channels := by
  simp only [violate, State.raise_channels, State.offer_channels]

@[simp] theorem channels_takeEnable (x : Port) (v : Word) (s : State) : (takeEnable x v s).channels = s.channels := rfl

@[simp] theorem channels_takeAck (x : Port) (v : Word) (s : State) : (takeAck x v s).channels = s.channels := rfl

@[simp] theorem channels_takeJread (x : Port) (v : Word) (s : State) : (takeJread x v s).channels = s.channels := by
  unfold takeJread
  split <;> rfl

@[simp] theorem channels_takeCommit (v : Word) (s : State) : (takeCommit v s).channels = s.channels := by
  unfold takeCommit
  split
  · rfl
  · split <;> rfl

@[simp] theorem channels_reportParity (p : Port) (t : Taken) (e : Lanes) (s : State) :
    (reportParity p t e s).channels = s.channels := by
  unfold reportParity
  split
  · split
    · simp only [State.raise_channels, State.offer_channels]
    · rfl
  · rfl

@[simp] theorem channels_reportLoadEnd (l : Load) (c : ResultCode) (d : Detail) (s : State) :
    (reportLoadEnd l c d s).channels = s.channels := by
  simp [reportLoadEnd, State.raiseBoth, State.offerBoth]

@[simp] theorem channels_continueLoader (s : State) : (continueLoader s).channels = s.channels := by
  unfold continueLoader
  split <;> rfl

@[simp] theorem channels_failLoad (l : Load) (c : ResultCode) (d : Detail) (s : State) :
    (failLoad l c d s).channels = s.channels := by simp [failLoad]

@[simp] theorem channels_finishReading (l : Load) (s : State) : (finishReading l s).channels = s.channels := by
  unfold finishReading
  split
  · exact channels_failLoad _ _ _ _
  · rfl

/-- The end of a Loader's read cycle leaves every runtime record as it is (R121). -/
@[simp] theorem channels_loaderReadDone (w : Word) (e : Lanes) (s : State) :
    (loaderReadDone w e s).channels = s.channels := by
  unfold loaderReadDone tableReadDone resumeReadDone
  split
  · split
    · split
      · exact channels_failLoad _ _ _ _
      · dsimp only
        split
        · rfl
        · split
          · exact channels_finishReading _ _
          · rfl
    · dsimp only
      split
      · rfl
      · exact channels_finishReading _ _
  · rfl

@[simp] theorem channels_abandonLoad (s : State) : (abandonLoad s).channels = s.channels := by
  unfold abandonLoad
  split
  · rfl
  · exact channels_reportLoadEnd _ _ _ _
  · exact channels_reportLoadEnd _ _ _ _

@[simp] theorem channels_itemCompleted (f : Flight) (s : State) : (itemCompleted f s).channels = s.channels := by
  unfold itemCompleted
  split <;> rfl

@[simp] theorem channels_mirrorCycleDone (s : State) : (mirrorCycleDone s).channels = s.channels := by
  unfold mirrorCycleDone
  split
  · split
    · rfl
    · exact (channels_itemCompleted _ _).trans rfl
  · rfl

@[simp] theorem channels_clockEdge (s : State) : (clockEdge s).channels = s.channels := by
  unfold clockEdge
  split
  · split <;> rfl
  · rfl

@[simp] theorem channels_dropReq (p : Port) (s : State) : (dropReq p s).channels = s.channels := by
  unfold dropReq
  split <;> rfl

@[simp] theorem channels_endChannel (l : Load) (s0 s : State) (n : Nat) : (endChannel l s0 s n).channels = s.channels := by
  unfold endChannel
  split
  · rfl
  · split
    · rfl
    · dsimp only
      split <;> split <;> simp only [State.offer_channels]

@[simp] theorem channels_settleChanBlock (l : Load) (s0 s : State) (n : Nat) :
    (settleChanBlock l s0 s n).channels = s.channels := by
  unfold settleChanBlock
  dsimp only
  split <;> split <;> rfl

@[simp] theorem channels_settleGroupBlock (l : Load) (s0 s : State) (g : Nat) :
    (settleGroupBlock l s0 s g).channels = s.channels := by
  unfold settleGroupBlock
  dsimp only
  split <;> split <;> rfl

@[simp] theorem channels_offerResumed (l : Load) (s0 s : State) (n : Nat) :
    (offerResumed l s0 s n).channels = s.channels := by
  unfold offerResumed
  split
  · split
    · exact channels_offerBoth _ _
    · rfl
  · rfl

/-- A fold of operations that each leave a field alone leaves it alone. -/
theorem foldl_field {α β : Type} (F : State → α) (f : State → β → State) (hf : ∀ s b, F (f s b) = F s) (bs : List β)
    (s : State) : F (bs.foldl f s) = F s := by
  induction bs generalizing s with
  | nil => rfl
  | cons b rest ih => rw [List.foldl_cons, ih, hf]

/-- Equal vectors of channels, equal channels. -/
theorem channel?_congr {s t : State} (h : t.channels = s.channels) (n : Nat) : t.channel? n = s.channel? n := by
  unfold State.channel?
  rw [h]

/-! ### Publication of a channel's buffer -/

@[simp] theorem channel?_publish (n b : Nat) (q x : Word) (s : State) (m : Nat) : (publish n b q x s).channel? m =
    if m = n then (s.channel? n).map fun c => c.published b s.clock else s.channel? m := by
  have hmod := State.channel?_modChannel s n m fun c => c.published b s.clock
  unfold publish
  cases hc : s.channel? n with
  | none => by_cases h : m = n <;> simp_all
  | some c =>
    rw [hc] at hmod
    dsimp only
    split
    · simpa only [State.raise_channel_at, State.offer_channel_at, State.mark_channel_at] using hmod
    · simpa only [State.mark_channel_at] using hmod

/-! ### The law of the roles in one channel (R2, R4) -/

/-- A channel that keeps its depth, and of whose filling, pending, live and held buffers some may have become none. -/
theorem Channel.roleLaw.weaken {c d : Channel} (h : c.roleLaw) (hd : d.desc.depth = c.desc.depth)
    (hf : d.filling = none ∨ d.filling = c.filling) (hp : d.pendBuf = none ∨ d.pendBuf = c.pendBuf)
    (hl : d.live = none ∨ d.live = c.live) (hh : d.held = none ∨ d.held = c.held) : d.roleLaw := by
  unfold Channel.roleLaw at h ⊢
  rw [hd]
  grind

theorem Channel.roleLaw.endPass {c : Channel} (h : c.roleLaw) : Channel.roleLaw { c with pass := none } :=
  h.weaken rfl (.inl rfl) (.inr rfl) (.inr rfl) (.inr rfl)

/-- R5: the target chosen is a buffer below the depth with no other role. -/
theorem Channel.chooseTarget_spec {c : Channel} {b : Nat} (h : c.chooseTarget = .buffer b) :
    b < c.desc.depth ∧ c.role b = .free ∧ ∀ k, k < b → c.role k ≠ .free := by
  unfold Channel.chooseTarget at h
  split at h
  · rename_i k hk
    cases h
    rw [List.find?_range_eq_some] at hk
    obtain ⟨hfree, hmem, hlow⟩ := hk
    exact ⟨by simpa using hmem, by simpa using hfree, fun j hj => by simpa using hlow j hj⟩
  · cases h

/-- R4: a buffer is FREE exactly where it is none of the four. -/
theorem Channel.role_eq_free (c : Channel) (b : Nat) :
    c.role b = .free ↔ c.filling ≠ some b ∧ c.pendBuf ≠ some b ∧ c.live ≠ some b ∧ c.held ≠ some b := by
  have hf : c.pass.map (·.target) = some (.buffer b) ↔ c.filling = some b := by
    unfold Channel.filling Target.buffer?
    cases c.pass with
    | none => simp
    | some p => cases h : p.target <;> simp [h]
  unfold Channel.role Channel.pendBuf
  grind

/-- R6: the pass that opens takes a buffer with no other role. -/
theorem Channel.roleLaw.opened {c : Channel} (h : c.roleLaw) (now : Word) : (c.opened now).roleLaw := by
  obtain ⟨-, hp, hl, hh⟩ := h
  refine ⟨fun b hb => ?_, hp, hl, hh⟩
  have ht : c.chooseTarget = .buffer b := by
    simp only [Channel.filling, Channel.opened, Target.buffer?] at hb
    split at hb
    · rename_i e; rw [e]; cases hb; rfl
    · cases hb
  obtain ⟨hlt, hfree, -⟩ := Channel.chooseTarget_spec ht
  obtain ⟨-, h1, h2, h3⟩ := (c.role_eq_free b).1 hfree
  exact ⟨hlt, h1, h2, h3⟩

/-- R19: a buffer below the depth that no pass fills becomes live; it is no longer pending. -/
theorem Channel.roleLaw.published {c : Channel} (h : c.roleLaw) {b : Nat} (now : Word) (hb : b < c.desc.depth)
    (hf : c.filling ≠ some b) : (c.published b now).roleLaw := by
  obtain ⟨h1, h2, h3, h4⟩ := h
  have hp : ∀ k, (c.published b now).pendBuf = some k → c.pendBuf = some k ∧ k ≠ b := by
    unfold Channel.pendBuf Channel.published
    dsimp only
    grind
  refine ⟨fun k hk => ?_, fun k hk => ?_, fun k hk => ?_, h4⟩
  · obtain ⟨hlt, hpk, -, hhk⟩ := h1 k hk
    exact ⟨hlt, fun e => hpk (hp k e).1, fun e => hf (by cases e; exact hk), hhk⟩
  · obtain ⟨hpk, hne⟩ := hp k hk
    exact ⟨(h2 k hpk).1, fun e => hne (by cases e; rfl), (h2 k hpk).2.2⟩
  · cases hk; exact hb

/-- R19: the pending buffer becomes live. -/
theorem Channel.roleLaw.publishedPending {c : Channel} (h : c.roleLaw) {q : PendingBuffer} (now : Word)
    (hq : c.pend = some q) : (c.published q.buf now).roleLaw := by
  have hp : c.pendBuf = some q.buf := by simp [Channel.pendBuf, hq]
  exact h.published now (h.2.1 _ hp).1 fun e => (h.1 _ e).2.1 hp

/-- R11: the target of a pass that closes becomes live. -/
theorem Channel.roleLaw.closedLive {c : Channel} (h : c.roleLaw) {b : Nat} (now : Word) (hb : c.filling = some b) :
    (Channel.published { c with pass := none } b now).roleLaw :=
  h.endPass.published now (h.1 b hb).1 (by simp [Channel.filling])

/-- R11: the target of a pass that closes becomes pending. -/
theorem Channel.roleLaw.closedPending {c : Channel} (h : c.roleLaw) {q : PendingBuffer} (hb : c.filling = some q.buf) :
    Channel.roleLaw { c with pass := none, pend := some q } := by
  obtain ⟨h1, -, h3, h4⟩ := h
  obtain ⟨hlt, -, hl, hh⟩ := h1 _ hb
  refine ⟨fun k hk => by simp [Channel.filling] at hk, fun k hk => ?_, h3, h4⟩
  have e : q.buf = k := by simpa [Channel.pendBuf] using hk
  subst e
  exact ⟨hlt, hl, hh⟩

/-- R44: the live buffer becomes held. -/
theorem Channel.roleLaw.pinned {c : Channel} (h : c.roleLaw) : c.pinned.roleLaw := by
  obtain ⟨h1, h2, h3, -⟩ := h
  refine ⟨fun k hk => ?_, fun k hk => ?_, h3, h3⟩
  · obtain ⟨a, b, c, -⟩ := h1 k hk; exact ⟨a, b, c, c⟩
  · obtain ⟨a, b, -⟩ := h2 k hk; exact ⟨a, b, b⟩

end Sys2Proof.Machine

namespace Sys2Proof.Machine

/-! SUPPORT. The law of the buffer roles in every channel, kept by the operations of the exchange unit, by takes and by
completions. -/

/-! ### The law of the roles in every channel (R4) -/

section RoleLaw
variable {s t : State}

theorem RoleLaw.congr (h : RoleLaw s) (hc : t.channels = s.channels) : RoleLaw t := fun n c hn =>
  h n c ((channel?_congr hc n).symm.trans hn)

theorem RoleLaw.mark (h : RoleLaw s) (i : MirrorItem) : RoleLaw (s.mark i) := h

theorem RoleLaw.raise (h : RoleLaw s) (p : Port) (c : Cause) : RoleLaw (s.raise p c) := h

theorem RoleLaw.offer (h : RoleLaw s) (p : Port) (r : Record) : RoleLaw (s.offer p r) := h

theorem RoleLaw.setAccess (h : RoleLaw s) (p : Port) (a : AccessState) : RoleLaw (s.setAccess p a) := h

theorem RoleLaw.modGroup (h : RoleLaw s) (g : Nat) (f : Group → Group) : RoleLaw (s.modGroup g f) := h

theorem RoleLaw.modChannel (h : RoleLaw s) (n : Nat) (f : Channel → Channel)
    (hf : ∀ c, s.channel? n = some c → c.roleLaw → (f c).roleLaw) : RoleLaw (s.modChannel n f) := by
  intro m d hd
  rw [State.channel?_modChannel] at hd
  split at hd
  · obtain ⟨c, hc, rfl⟩ := Option.map_eq_some_iff.1 hd
    exact hf c hc (h n c hc)
  · exact h m d hd

theorem RoleLaw.foldl {β : Type} (f : State → β → State) (hf : ∀ s b, RoleLaw s → RoleLaw (f s b)) (bs : List β)
    (h : RoleLaw s) : RoleLaw (bs.foldl f s) := by
  induction bs generalizing s with
  | nil => exact h
  | cons b rest ih => exact ih (hf s b h)

theorem RoleLaw.publish (h : RoleLaw s) (n b : Nat) (q x : Word)
    (hb : ∀ c, s.channel? n = some c → (c.published b s.clock).roleLaw) : RoleLaw (publish n b q x s) := by
  intro m d hd
  rw [channel?_publish] at hd
  split at hd
  · obtain ⟨c, hc, rfl⟩ := Option.map_eq_some_iff.1 hd
    exact hb c hc
  · exact h m d hd

theorem RoleLaw.publishPending (h : RoleLaw s) (n : Nat) : RoleLaw (publishPending s n) := by
  unfold Machine.publishPending
  split
  · rename_i q hq
    obtain ⟨c, hc, hp⟩ := Option.bind_eq_some_iff.1 hq
    refine h.publish n q.buf q.seq q.closeTime fun d hd => ?_
    cases hc.symm.trans hd
    exact (h n c hc).publishedPending s.clock hp
  · exact h

theorem RoleLaw.publishMembers (h : RoleLaw s) (g : Nat) : RoleLaw (publishMembers g s) :=
  h.foldl _ (fun _ n hs => hs.publishPending n) _

theorem RoleLaw.memberGained (h : RoleLaw s) (g : Nat) : RoleLaw (memberGained g s) := by
  have hg : RoleLaw (startGather g s) := h.congr (channels_startGather g s)
  unfold Machine.memberGained
  split
  · unfold completeGather
    split
    · exact (hg.publishMembers g).congr (channels_endGather g _)
    · exact hg
  · exact h

theorem RoleLaw.endPass (h : RoleLaw s) (n : Nat) : RoleLaw (s.modChannel n fun c => { c with pass := none }) :=
  h.modChannel n _ fun _ _ hc => hc.endPass

theorem RoleLaw.haltChannel (h : RoleLaw s) (n : Nat) (x : Port) (e : Bool) (p : FillPass) :
    RoleLaw (haltChannel n x e p s) :=
  ((h.modChannel n (fun c => { c with halted := true }) fun _ _ hc => hc).offer _ _).mark _

/-- R10 to R13: a pass that closes gives its target to the record that R11 names, or to none. -/
theorem RoleLaw.closePass (h : RoleLaw s) (n : Nat) (seq : Word) : RoleLaw (closePass n seq s) := by
  unfold Machine.closePass
  split
  · exact h
  rename_i c hc
  split
  · exact h
  rename_i p hp
  split
  swap
  · exact h
  have hs1 : RoleLaw ((s.modChannel n fun c => { c with pass := none }).mark (.chanBlock n)) := (h.endPass n).mark _
  have hs1n : ∀ d, ((s.modChannel n fun c => { c with pass := none }).mark (.chanBlock n)).channel? n = some d →
      d = { c with pass := none } := fun d hd => by simpa [hc] using hd.symm
  split
  · unfold closeShed
    dsimp only
    split
    · exact RoleLaw.haltChannel ((hs1.offer _ _).raise _ _) _ _ _ _
    · exact (hs1.offer _ _).raise _ _
  · rename_i b hb
    have hfill : c.filling = some b := by simp [Channel.filling, hp, hb, Target.buffer?]
    split
    · refine hs1.publish n b p.seq s.clock fun d hd => ?_
      rw [hs1n d hd]
      exact (h n c hc).closedLive s.clock hfill
    · unfold closeIntoPending
      refine RoleLaw.memberGained (RoleLaw.modChannel (hs1.congr (channels_supersede n c _)) _ _ fun d hd _ => ?_) _
      rw [hs1n d ((channel?_congr (channels_supersede n c _) n).symm.trans hd)]
      exact (h n c hc).closedPending hfill

theorem RoleLaw.expirePass (h : RoleLaw s) (n : Nat) : RoleLaw (expirePass n s) := by
  unfold Machine.expirePass
  split
  · exact h
  split
  · exact h
  have hs1 := ((h.endPass n).mark (.chanBlock n))
  dsimp only
  split
  · exact RoleLaw.haltChannel ((hs1.offer _ _).raise _ _) _ _ _ _
  · exact (hs1.offer _ _).raise _ _

theorem RoleLaw.rearm (h : RoleLaw s) (x : Port) (v : Word) : RoleLaw (rearm x v s) := by
  refine h.foldl _ (fun s n hs => ?_) _
  unfold rearmOne
  split
  · split
    · exact (hs.modChannel n (fun c => { c with halted := false }) fun _ _ hc => hc).mark _
    · exact hs
  · exact hs

theorem RoleLaw.takeProducerWrite (h : RoleLaw s) (n off : Nat) : RoleLaw (takeProducerWrite n off s).1 := by
  have hopen : RoleLaw (openPass n s) := by
    unfold openPass
    split
    · split
      · exact (h.modChannel n _ fun _ _ hc => hc.opened s.clock).mark _
      · exact h
    · exact h
  unfold Machine.takeProducerWrite
  dsimp only
  split
  · refine hopen.modChannel n _ fun c _ hc => hc.weaken rfl (.inr ?_) (.inr rfl) (.inr rfl) (.inr rfl)
    unfold Channel.filling
    cases c.pass <;> rfl
  · exact hopen

theorem RoleLaw.openPin (h : RoleLaw s) (g : Nat) : RoleLaw (openPin g s) := by
  unfold Machine.openPin
  split
  · split
    · refine RoleLaw.foldl _ (fun s n hs => ?_) _ ((h.modGroup _ _).mark _)
      unfold pinMember
      split
      · have hp := hs.modChannel n Channel.pinned fun _ _ hc => hc.pinned
        dsimp only
        split
        · exact hp
        · exact hp.mark _
      · exact hs
    · exact h
  · exact h

theorem RoleLaw.takeConsumerRead (h : RoleLaw s) (n off : Nat) : RoleLaw (takeConsumerRead n off s).1 := by
  unfold Machine.takeConsumerRead
  split
  · exact h
  · dsimp only
    split
    · exact (h.openPin _).modGroup _ _
    · exact h.openPin _

theorem RoleLaw.dropPin (h : RoleLaw s) (g : Nat) : RoleLaw (dropPin g s) := by
  refine RoleLaw.mark (RoleLaw.foldl unpinMember (fun s n hs => ?_) (s.members g) (h.modGroup _ _)) _
  unfold unpinMember
  split
  · split
    · exact (hs.modChannel n (fun c => { c with held := none }) fun _ _ hc =>
        hc.weaken rfl (.inr rfl) (.inr rfl) (.inr rfl) (.inl rfl)).mark _
    · exact hs
  · exact hs

theorem RoleLaw.releasePin (h : RoleLaw s) (g : Nat) (i : Bool) : RoleLaw (releasePin g i s) := by
  unfold Machine.releasePin
  split
  · exact h
  · exact ((h.dropPin g).offer _ _).raise _ _

theorem RoleLaw.closePin (h : RoleLaw s) (g : Nat) : RoleLaw (closePin g s) := by
  unfold Machine.closePin
  split
  · exact h
  · dsimp only
    split
    · exact ((h.dropPin g).offer _ _).raise _ _
    · exact h.dropPin g

theorem RoleLaw.exchangeStep (h : RoleLaw s) (t : Taken) (e : Lanes) : RoleLaw (exchangeStep t e s) := by
  unfold Machine.exchangeStep exchangeCompletion
  split
  · split
    · split
      · split
        · exact h.closePass _ _
        · exact h
      · exact h
    · split
      · exact h
      · have ht : ∀ g, RoleLaw (taintPin g s) := fun g => h.congr (channels_taintPin g s)
        dsimp only
        split
        · split
          · exact (ht _).closePin _
          · exact h.closePin _
        · split
          · exact ht _
          · exact h
  · exact h

/-! ### A take and a completion -/

theorem RoleLaw.take (h : RoleLaw s) (p : Port) (d : Drive) : RoleLaw (take p d s) := by
  have act : ∀ o x, RoleLaw (actOnTake p d x o s) := by
    intro o x
    unfold actOnTake
    split
    · rename_i t _
      cases t
      · exact h.congr (channels_takeCommit _ s)
      · exact h.congr (channels_takeEnable _ _ s)
      · exact h.congr (channels_takeAck _ _ s)
      · exact h.congr (channels_takeJread _ _ s)
      · exact h.rearm _ _
    · exact h.congr (channels_violate _ _ _ _ _ s)
    · exact h
  refine RoleLaw.setAccess ?_ p _
  unfold decodeAndAct
  split
  · exact act _ _
  · unfold takeChannel
    split
    · exact h
    · split
      · split
        · exact h.takeProducerWrite _ _
        · exact h
      · split
        · exact h.congr (channels_violate _ _ _ _ _ s)
        · exact h.takeConsumerRead _ _
  · exact act _ _
  · exact h
  · exact h
  · exact h

theorem RoleLaw.arriveIfRequested (h : RoleLaw s) (p : Port) : RoleLaw (arriveIfRequested p s) := by
  unfold Machine.arriveIfRequested arrive
  split
  · split
    · exact h.setAccess _ _
    · exact h.take _ _
  · exact h

theorem RoleLaw.present (h : RoleLaw s) (p : Port) (d : Drive) : RoleLaw (present p d s) := by
  have hd : RoleLaw (drivePort p d s) := h.congr rfl
  unfold Machine.present
  split
  · exact hd.arriveIfRequested p
  · exact hd

theorem RoleLaw.takeHeld (h : RoleLaw s) : RoleLaw (takeHeld s) := by
  have one : ∀ p u, RoleLaw u → RoleLaw (takeHeldOf p u) := fun p u hu => by
    unfold takeHeldOf
    split
    · exact hu.take _ _
    · exact hu
  exact one .B _ (one .A _ h)

theorem RoleLaw.complete (h : RoleLaw s) (p : Port) (t : Taken) (w : Word) (e : Lanes) : RoleLaw (complete p t w e s) := by
  have he : RoleLaw (noteReports s (completionEffects t p e s)) :=
    RoleLaw.congr (RoleLaw.exchangeStep (h.congr (channels_reportParity p t e s)) t e) (channels_noteReports _ _)
  unfold Machine.complete finishPort
  split
  · exact (he.setAccess p .idle).arriveIfRequested p
  · exact he.setAccess _ _

theorem RoleLaw.memoryCycleEnd (h : RoleLaw s) : RoleLaw (memoryCycleEnd s) := by
  unfold Machine.memoryCycleEnd
  split
  · exact h
  · rename_i c _
    have hs1 : RoleLaw { s with cycle := none, mem := cycleMem s.mem c } := h
    dsimp only
    split
    · split
      · exact hs1.complete _ _ _ _
      · exact hs1
    · exact hs1.congr (channels_loaderReadDone _ _ _)
    · exact hs1.congr (channels_mirrorCycleDone _)

theorem RoleLaw.completeCycleless (h : RoleLaw s) (p : Port) : RoleLaw (completeCycleless p s) := by
  unfold Machine.completeCycleless
  split
  · split
    · exact h.complete _ _ _ _
    · exact h
  · exact h

end RoleLaw

end Sys2Proof.Machine

namespace Sys2Proof.Machine

/-! SUPPORT. Descriptors, the install and the part's own events under the law of the buffer roles; then the law itself. -/

/-! ### Descriptors (R110, R124) -/

/-- The descriptor installed at place `n`, if a channel is installed there. -/
def State.descOf (s : State) (n : Nat) : Option ChanDesc := (s.channel? n).map (·.desc)

theorem State.descOf_congr {s t : State} (h : t.channels = s.channels) : t.descOf = s.descOf := by
  funext n
  rw [State.descOf, channel?_congr h, State.descOf]

@[simp] theorem State.descOf_mark (s : State) (i : MirrorItem) : (s.mark i).descOf = s.descOf := rfl

@[simp] theorem State.descOf_raise (s : State) (p : Port) (c : Cause) : (s.raise p c).descOf = s.descOf := rfl

@[simp] theorem State.descOf_offer (s : State) (p : Port) (r : Record) : (s.offer p r).descOf = s.descOf :=
  State.descOf_congr (State.offer_channels s p r)

@[simp] theorem State.descOf_modGroup (s : State) (g : Nat) (f : Group → Group) : (s.modGroup g f).descOf = s.descOf := rfl

theorem State.descOf_modChannel (s : State) (n : Nat) (f : Channel → Channel) (hf : ∀ c, (f c).desc = c.desc) :
    (s.modChannel n f).descOf = s.descOf := by
  funext m
  unfold State.descOf
  rw [State.channel?_modChannel]
  split
  · rename_i h
    subst h
    cases s.channel? m with
    | none => rfl
    | some c => exact congrArg some (hf c)
  · rfl

theorem ChanDesc.sameBody_iff (d e : ChanDesc) : d.sameBody e = true ↔ d.w0 = e.w0 ∧ d.w1 = e.w1 ∧ d.w2 = e.w2 ∧
    d.w3 = e.w3 ∧ d.w4 = e.w4 ∧ d.w5 = e.w5 ∧ d.w6 = e.w6 := by
  simp [ChanDesc.sameBody, and_assoc]

/-- R124: what a carried channel is. -/
theorem carriesChannel_iff {s : State} {l : Load} {n : Nat} : carriesChannel s l n = true ↔
    ∃ c, s.channel? n = some c ∧ (l.chan n).valid = true ∧ (l.chan n).sameBody c.desc = true := by
  unfold carriesChannel
  cases s.channel? n <;> simp

/-! ### The endings (R126, R128) keep every descriptor -/

theorem descOf_releasePin (g : Nat) (i : Bool) (s : State) : (releasePin g i s).descOf = s.descOf := by
  have hone : ∀ s n, (unpinMember s n).descOf = s.descOf := by
    intro s n
    unfold unpinMember
    split
    · split
      · exact State.descOf_modChannel s n (fun c => { c with held := none }) fun _ => rfl
      · rfl
    · rfl
  unfold releasePin
  split
  · rfl
  · simp only [State.descOf_raise, State.descOf_offer, dropPin, State.descOf_mark,
      foldl_field State.descOf unpinMember hone, State.descOf_modGroup]

theorem descOf_dropMemberPending (l : Load) (s0 s : State) (n : Nat) :
    (dropMemberPending l s0 s n).descOf = s.descOf := by
  unfold dropMemberPending
  split
  · rfl
  · split
    · split
      · exact (State.descOf_offer _ _ _).trans
          (State.descOf_modChannel s n (fun c => { c with pend := none }) fun _ => rfl)
      · rfl
    · rfl

theorem descOf_endGroup (l : Load) (s0 s : State) (g : Nat) : (endGroup l s0 s g).descOf = s.descOf := by
  unfold endGroup
  split
  · rfl
  · split
    · rfl
    · rw [foldl_field State.descOf _ (descOf_dropMemberPending l s0), descOf_releasePin]

theorem descOf_endOldSet (l : Load) (s : State) : (endOldSet l s).descOf = s.descOf := by
  unfold endOldSet
  rw [foldl_field State.descOf _ (descOf_endGroup l s)]
  exact State.descOf_congr (foldl_field State.channels _ (channels_endChannel l s) _ s)

/-! ### The law of the roles at an install (R124 to R128) -/

section RoleLaw
variable {s : State}

theorem RoleLaw.endOldSet (h : RoleLaw s) (l : Load) : RoleLaw (endOldSet l s) := by
  refine RoleLaw.foldl _ (fun u g hu => ?_) _ (h.congr (foldl_field State.channels _ (channels_endChannel l s) _ s))
  unfold endGroup
  split
  · exact hu
  · split
    · exact hu
    · refine RoleLaw.foldl _ (fun v m hv => ?_) _ (hu.releasePin g true)
      unfold dropMemberPending
      split
      · exact hv
      · split
        · split
          · exact (hv.modChannel m (fun c => { c with pend := none }) fun _ _ hc =>
              hc.weaken rfl (.inr rfl) (.inl rfl) (.inr rfl) (.inr rfl)).offer _ _
          · exact hv
        · exact hv

/-- R125: a buffer taken up by a created channel lies below its depth. -/
theorem Load.resumed_lt {l : Load} {n b : Nat} (h : l.resumed n = some b) : b < (l.chan n).depth := by
  unfold Load.resumed at h
  split at h
  · split at h
    · split at h
      · rename_i hc
        simp only [Bool.and_eq_true, decide_eq_true_eq] at hc
        cases h
        exact hc.2
      · cases h
    · cases h
  · cases h

theorem Channel.roleLaw_created (d : ChanDesc) {live : Option Nat} (now : Word) (h : ∀ b, live = some b → b < d.depth) :
    (Channel.created d live now).roleLaw :=
  ⟨fun _ hb => by simp [Channel.created, Channel.filling] at hb,
    fun _ hb => by simp [Channel.created, Channel.pendBuf] at hb, h, fun _ hb => by simp [Channel.created] at hb⟩

theorem Channel.roleLaw.carried {c : Channel} (h : c.roleLaw) {d : ChanDesc} (now : Word) (hd : d.depth = c.desc.depth) :
    (c.carried d now).roleLaw := by
  refine h.weaken hd (.inr ?_) (.inr rfl) (.inr rfl) (.inr rfl)
  unfold Channel.filling Channel.carried
  cases c.pass <;> rfl

theorem RoleLaw.installLoad (h : RoleLaw s) (l : Load) : RoleLaw (installLoad l s) := by
  have hs1 : RoleLaw (takeNewSet l s (Machine.endOldSet l s)) := by
    intro n c hc
    rw [channel?_takeNewSet] at hc
    split at hc
    swap
    · cases hc
    unfold newChannel at hc
    split at hc
    · rename_i hcar
      obtain ⟨c0, hc0, -, hsame⟩ := carriesChannel_iff.1 hcar
      obtain ⟨d, hd, rfl⟩ := Option.map_eq_some_iff.1 hc
      have hdesc : d.desc = c0.desc := by
        have := congrFun (descOf_endOldSet l s) n
        simpa [State.descOf, hd, hc0] using this
      exact (h.endOldSet l n d hd).carried _ (by rw [hdesc, ChanDesc.depth, ((ChanDesc.sameBody_iff _ _).1 hsame).1]; rfl)
    · split at hc
      · cases hc
        exact Channel.roleLaw_created _ _ fun b hb => Load.resumed_lt hb
      · cases hc
  refine RoleLaw.takeHeld (hs1.congr ?_)
  rw [channels_continueLoader, State.mark_channels, channels_reportLoadEnd,
    foldl_field State.channels _ (channels_offerResumed l s), foldl_field State.channels _ (channels_settleGroupBlock l s),
    foldl_field State.channels _ (channels_settleChanBlock l s)]

theorem RoleLaw.install (h : RoleLaw s) : RoleLaw (install s) := by
  unfold Machine.install
  split
  · split
    · exact h.installLoad _
    · exact h
  · exact h

/-! ### The law of the roles at the part's own events and at the changes of the part state -/

theorem RoleLaw.becomeStale (h : RoleLaw s) (n : Nat) : RoleLaw (becomeStale n s) := by
  unfold Machine.becomeStale
  split
  · exact h
  · exact ((h.modChannel n (fun c => { c with cond := .stale, freshDl := none }) fun _ _ hc => hc).mark _).offer _ _

theorem RoleLaw.partialPublication (h : RoleLaw s) (g : Nat) : RoleLaw (partialPublication g s) := by
  unfold Machine.partialPublication
  split
  · exact h
  · exact ((h.publishMembers g).offer _ _).congr (channels_endGather g _)

theorem RoleLaw.ownEvent (h : RoleLaw s) (e : Instr) : RoleLaw (ownEvent e s) := by
  cases e
  case install => exact h.install
  case fillExpiry n => exact h.expirePass n
  case freshnessDeadlineReached n => exact h.becomeStale n
  case pinRelease g => exact h.releasePin g false
  case partialPublication g => exact h.partialPublication g
  case frameTick g => exact ((h.publishMembers g).modGroup _ _).mark _
  all_goals exact h

theorem RoleLaw.startHoldover (h : RoleLaw s) : RoleLaw (startHoldover s) := by
  have habort : ∀ u n, RoleLaw u → RoleLaw (abortPass u n) := by
    intro u n hu
    unfold abortPass
    split
    · exact hu
    · split
      · exact hu
      · exact ((hu.endPass n).mark _).offer _ _
  have hs1 : RoleLaw (({ s with partState := .holdover }.mark (.part 1)).offerBoth (holdoverRecord s)) := h.congr rfl
  refine RoleLaw.takeHeld ((RoleLaw.foldl abortPass habort indices hs1).congr ?_)
  rw [channels_abandonLoad, foldl_field State.channels _ channels_cancelGather]

theorem RoleLaw.powerFails (h : RoleLaw s) : RoleLaw (powerFails s) := by
  have hs1 : RoleLaw { s with pins := { s.pins with pfailN := false } } := h
  unfold Machine.powerFails
  dsimp only
  split
  · exact hs1.startHoldover
  · exact hs1

theorem RoleLaw.resetFalls (h : RoleLaw s) : RoleLaw (resetFalls s) := by
  unfold Machine.resetFalls
  split
  · intro n c hc
    have hn : (enterReset s).channel? n = none := by
      by_cases hn : n < 24 <;> simp [State.channel?, enterReset, State.reset, hn]
    cases hn.symm.trans hc
  · exact h

theorem RoleLaw.leaveReset (h : RoleLaw s) (m : BitVec 2) (c f : Bool) : RoleLaw (leaveReset m c f s) := by
  have hs1 : RoleLaw (sampleStraps m c f s) := h
  refine RoleLaw.arriveIfRequested (RoleLaw.arriveIfRequested ?_ _) _
  split
  · exact hs1.startHoldover
  · exact hs1

theorem RoleLaw.event {f : State → State} (h : RoleLaw (f s)) : RoleLaw (event f s) := h.congr (channels_event f s)

end RoleLaw

/-- Settles O55: the law holds of every state that an effect of the step leaves, so `step_keeps` gives it of the step. -/
theorem everyStepKeepsTheRoleLaw : Obligations.EveryStepKeepsTheRoleLaw := by
  intro s t hs h
  exact step_keeps RoleLaw (fun _ _ hs => hs) (fun e _ _ hs => (hs.ownEvent e).event) (fun p d _ hs => (hs.present p d).event)
    (fun p s hs => RoleLaw.event (hs.congr (channels_dropReq p s))) (fun _ hs => hs.memoryCycleEnd.event)
    (fun p _ hs => (hs.completeCycleless p).event) (fun s hs => RoleLaw.event (hs.congr (channels_clockEdge s)))
    (fun _ hs => hs.powerFails.event) (fun s hs => hs.powerFails.congr (channels_ungranted powerFails s))
    (fun _ hs => hs.resetFalls) (fun m c f _ _ hs => (hs.leaveReset m c f).event) hs h

end Sys2Proof.Machine

/-! SUPPORT. The roles of R4 and the target of R5 said in the words of the runtime record; and that the state after reset
meets every law. -/
namespace Sys2Proof.Machine

/-! ### The target of a pass (R5) -/

theorem Channel.chooseTarget_eq_shed (c : Channel) :
    c.chooseTarget = .shed ↔ ∀ b, b < c.desc.depth → c.role b ≠ .free := by
  have hfind : c.chooseTarget = .shed ↔ (List.range c.desc.depth).find? (fun b => c.role b = .free) = none := by
    unfold Channel.chooseTarget
    cases (List.range c.desc.depth).find? fun b => c.role b = .free <;> simp
  rw [hfind, List.find?_eq_none]
  simp

theorem Channel.chooseTarget_eq_buffer (c : Channel) (b : Nat) :
    c.chooseTarget = .buffer b ↔ b < c.desc.depth ∧ c.role b = .free ∧ ∀ k, k < b → c.role k ≠ .free := by
  refine ⟨Channel.chooseTarget_spec, fun ⟨hb, hfree, hlow⟩ => ?_⟩
  cases ht : c.chooseTarget with
  | shed => exact absurd hfree ((c.chooseTarget_eq_shed).1 ht b hb)
  | buffer k =>
    obtain ⟨-, hk, hlowk⟩ := Channel.chooseTarget_spec ht
    rcases Nat.lt_trichotomy k b with h | rfl | h
    · exact absurd hk (hlow k h)
    · rfl
    · exact absurd hfree (hlowk b h)

/-! ### The role of a buffer (R4) -/

/-- R4: the order in which the roles are read off the record. -/
theorem Channel.role_eq (c : Channel) (b : Nat) : c.role b =
    if c.filling = some b then .filling else if c.pendBuf = some b then .pending else if c.live = some b then .live
    else if c.held = some b then .held else .free := by
  have hf : c.pass.map (·.target) = some (.buffer b) ↔ c.filling = some b := by
    unfold Channel.filling Target.buffer?
    cases c.pass with
    | none => simp
    | some p => cases h : p.target <;> simp [h]
  unfold Channel.role Channel.pendBuf
  simp only [hf]

/-- R4: under the law that keeps them apart, each role is read off its own field. -/
theorem Channel.roleLaw.role_iff {c : Channel} (h : c.roleLaw) (b : Nat) :
    (c.role b = .filling ↔ c.filling = some b) ∧ (c.role b = .pending ↔ c.pendBuf = some b) ∧
      (c.role b = .live ↔ c.live = some b) ∧ (c.role b = .held ↔ c.held = some b ∧ c.live ≠ some b) := by
  obtain ⟨hfill, hpend, -, -⟩ := h
  have hf := hfill b
  have hp := hpend b
  rw [Channel.role_eq]
  by_cases e1 : c.filling = some b
  · obtain ⟨-, h1, h2, h3⟩ := hf e1
    simp [e1, h1, h2, h3]
  by_cases e2 : c.pendBuf = some b
  · obtain ⟨-, h1, h2⟩ := hp e2
    simp [e1, e2, h1, h2]
  by_cases e3 : c.live = some b
  · simp [e1, e2, e3]
  by_cases e4 : c.held = some b <;> simp [e1, e2, e3, e4]

/-- Settles O15: the search of R5 finds the first FREE buffer, and a role is read off its own field of the record. -/
theorem theTargetIsTheLowestFreeBuffer : Obligations.TheTargetIsTheLowestFreeBuffer := fun c =>
  ⟨c.role_eq_free, fun h => h.role_iff, c.chooseTarget_eq_buffer, c.chooseTarget_eq_shed⟩

/-! ### The state after reset (R168) -/

@[simp] theorem channel?_reset (n : Nat) : State.reset.channel? n = none := by
  by_cases hn : n < 24 <;> simp [State.channel?, State.reset, hn]

@[simp] theorem group?_reset (g : Nat) : State.reset.group? g = none := by
  by_cases hg : g < 24 <;> simp [State.group?, State.reset, hg]

@[simp] theorem region?_reset (r : Nat) : State.reset.region? r = none := by
  by_cases hr : r < 16 <;> simp [State.region?, State.reset, hr]

theorem access_reset (p : Port) : State.reset.access p = .idle := by cases p <;> rfl

theorem lineLaw_reset : LineLaw State.reset := by
  intro p
  have hline : (State.reset.attention.get p).line = false := by cases p <;> rfl
  have hrep : (State.reset.attention.get p).reported = 0 := by cases p <;> rfl
  simp [hline, hrep]

theorem holdoverLaw_reset : HoldoverLaw State.reset :=
  ⟨fun _ => rfl, fun h => by cases h⟩

theorem flightLaw_reset : FlightLaw State.reset := fun _ h => by cases h

/-- R135: no slot is dirty at reset. -/
theorem slot_not_dirty_at_reset (p : Port) (k : BitVec 7) : ¬ slotWaits State.reset p k := by
  rintro (h | ⟨f, hf, -⟩)
  · simp [State.reset, Mirror.reset, Mirror.resetDirty] at h
  · cases hf

theorem journalLaw_reset : JournalLaw State.reset := by
  refine ⟨flightLaw_reset, fun p => ?_⟩
  have hj : State.reset.journals.get p = Journal.reset := by cases p <;> rfl
  unfold journalLaw
  rw [hj]
  refine ⟨by decide, by decide, fun k => ?_, ?_, ?_⟩
  · simp [slot_not_dirty_at_reset, Journal.reset]
  · intro f k hf; cases hf
  · intro f hf; cases hf

theorem resetLaw_reset : ResetLaw State.reset := fun _ =>
  ⟨access_reset, rfl, channel?_reset, group?_reset, region?_reset, rfl⟩

theorem fittedLaw_reset : FittedLaw State.reset := by
  refine ⟨?_, ?_, ?_, ?_, ?_, ?_, ?_, ?_, resetLaw_reset⟩
  · intro c h; cases h
  · intro p t a h; simp [State.inFlight?, access_reset] at h
  · intro n c h; simp at h
  · intro r g h; simp at h
  · intro l h; cases h
  · intro l h; cases h
  · intro i hi
    simp only [State.reset, Mirror.reset, Mirror.resetDirty, List.mem_cons, List.not_mem_nil, or_false] at hi
    rcases hi with rfl | rfl | rfl | rfl | rfl | rfl | rfl | rfl | rfl <;> simp [MirrorItem.inArea]
  · intro f h; cases h

theorem chainLaw_reset : ChainLaw State.reset :=
  ⟨fun g gr h => by simp at h, fun n c h => by simp at h, fun _ h => by cases h⟩

/-- Settles O52: in reset nothing is installed, in flight or waiting but the nine items of R135. -/
theorem resetMeetsTheLaws : Obligations.ResetMeetsTheLaws :=
  ⟨reset_mem_wf, ⟨by decide, by decide, by decide⟩, lineLaw_reset, fun n c h => by simp at h, holdoverLaw_reset,
    journalLaw_reset, fittedLaw_reset, chainLaw_reset, ⟨fun _ => 0, fun _ h => by cases h⟩,
    ⟨fun g gr h => by simp at h, fun _ h => by cases h⟩⟩

end Sys2Proof.Machine

/-! SUPPORT. What a taken access is in a channel window that its port produces (R6 to R9, R17), and the takes that belong to
it. -/
namespace Sys2Proof.Machine

/-! ### Pending sets (R156, R157) -/

/-- What a pending set reads of a channel. -/
def Channel.levels (c : Channel) : Bool × Condition × ChanDesc := (c.halted, c.cond, c.desc)

/-- A pending set depends on the latched causes, the part state, the span of the journal and the levels of the channels. -/
theorem pendingSet_of_levels {s t : State} {p : Port} (hl : (t.attention.get p).latched = (s.attention.get p).latched)
    (hp : t.partState = s.partState) (hc : ∀ n, (t.channel? n).map Channel.levels = (s.channel? n).map Channel.levels)
    (hj : (t.journals.get p).h = (s.journals.get p).h ∧ (t.journals.get p).rd = (s.journals.get p).rd) :
    pendingSet t p = pendingSet s p := by
  have hany : anyHalted t p = anyHalted s p ∧ anyStale t p = anyStale s p := by
    have hhalt : anyHalted t p = indices.any fun n =>
        match (t.channel? n).map Channel.levels with
        | some c => c.1 && c.2.2.producer == p
        | none => false := by
      unfold anyHalted
      refine congrArg _ (funext fun n => ?_)
      cases t.channel? n <;> rfl
    have hstale : anyStale t p = indices.any fun n =>
        match (t.channel? n).map Channel.levels with
        | some c => c.2.1 == .stale && c.2.2.consumer == p
        | none => false := by
      unfold anyStale
      refine congrArg _ (funext fun n => ?_)
      cases t.channel? n <;> rfl
    rw [hhalt, hstale]
    simp only [hc]
    constructor
    · unfold anyHalted
      refine congrArg _ (funext fun n => ?_)
      cases s.channel? n <;> rfl
    · unfold anyStale
      refine congrArg _ (funext fun n => ?_)
      cases s.channel? n <;> rfl
  simp only [pendingSet, levelSet, journalHolds, hl, hp, hj.1, hj.2, hany.1, hany.2]

theorem levels_modChannel (s : State) (n : Nat) (f : Channel → Channel) (hf : ∀ c, (f c).levels = c.levels) (m : Nat) :
    ((s.modChannel n f).channel? m).map Channel.levels = (s.channel? m).map Channel.levels := by
  rw [State.channel?_modChannel]
  split
  · rename_i h
    subst h
    cases s.channel? m <;> simp [hf]
  · rfl

/-- R157: the marks of report words change the Mirror alone. -/
theorem noteReports_eq (b s : State) : noteReports b s = { s with mirror := (noteReports b s).mirror } := by
  unfold noteReports noteReport
  split <;> split <;> rfl

/-! ### Equal but for what the exchange unit changes -/

theorem OnlyExchange.congr_setAccess {s t : State} (h : OnlyExchange s t) (p : Port) (a : AccessState) :
    OnlyExchange (s.setAccess p a) (t.setAccess p a) :=
  { h with ports := congrArg (fun q : Both PortIf => q.modify p fun r => { r with access := a }) h.ports }

/-- Where the groups, the journals and the attention states are the same too, only channels and marks may differ. -/
theorem OnlyExchange.eq_of {s t : State} (h : OnlyExchange s t) (hg : t.groups = s.groups)
    (hj : t.journals = s.journals) (ha : t.attention = s.attention) :
    t = { s with channels := t.channels, mirror := t.mirror } := by
  have e := h.eq
  rw [hg, hj, ha] at e
  exact e

/-! ### Arrivals that are taken (R92) -/

/-- R92: an access presented to a port that takes it is taken. -/
theorem present_of_takes {s : State} {p : Port} (h : Takes s p) (d : Drive) :
    present p d s = take p d (drivePort p d s) := by
  obtain ⟨hr, hq, ha, hd⟩ := h
  have hreq : ((drivePort p d s).ports.get p).req = true ∧ ((drivePort p d s).ports.get p).inputs = d := by
    unfold drivePort
    rw [Both.get_modify_self]
    exact ⟨rfl, rfl⟩
  have hdr : (drivePort p d s).draining = false := hd
  unfold present arriveIfRequested arrive
  simp [hr, hq, ha, hdr]

/-- R73, R92: a take whose decode result is no violation. -/
theorem take_of_allowed {s t : State} {p : Port} {d : Drive} {o : Decoded} (h : decodeAndAct p d s = (t, o))
    (ho : o.isViolation = false) :
    take p d s = t.setAccess p (.taken { drive := d, outcome := o, err := false, withdrawn := false }) := by
  unfold take
  rw [h]
  simp only [ho, Bool.false_and]

/-- R82: an access of a port in the window of a channel that it produces. -/
theorem take_of_producer {s : State} {p : Port} {d : Drive} {n off : Nat} {c : Channel}
    (hl : landing s d.addr = .channel n off) (hc : s.channel? n = some c) (hp : c.desc.producer = p) : take p d s =
    if d.wr then (takeProducerWrite n off s).1.setAccess p (.taken
      { drive := d, outcome := .channel (takeProducerWrite n off s).2, err := false, withdrawn := false })
    else s.setAccess p (.taken
      { drive := d, outcome := .channel (steerProducerRead s n off), err := false, withdrawn := false }) := by
  unfold take decodeAndAct
  simp only [hl, takeChannel, hc, hp, if_true]
  cases d.wr <;> rfl

theorem landing_drivePort (p : Port) (d : Drive) (s : State) (a : LogAddr) :
    landing (drivePort p d s) a = landing s a := rfl

/-! ### Producer accesses (R6 to R9, R17) -/

/-- R8: a producer write that is barred is dropped and belongs to no pass. -/
theorem steerWrite_of_barred {s : State} {n off : Nat} {c : Channel} (hc : s.channel? n = some c)
    (hb : writeBarred s c = true) : steerWrite s n off =
    { ch := n, side := .producer, steer := .nowhere, passSeq := none, closing := off + 1 == c.desc.len } := by
  simp [steerWrite, hc, hb]

/-- R7: a producer write in an open pass goes to its target. -/
theorem steerWrite_of_pass {s : State} {n off : Nat} {c : Channel} {q : FillPass} (hc : s.channel? n = some c)
    (hb : writeBarred s c = false) (hq : c.pass = some q) : steerWrite s n off =
    { ch := n
      side := .producer
      steer := match q.target with
        | .buffer b => .buffer b (c.desc.base b + BitVec.ofNat 17 off)
        | .shed => .nowhere
      passSeq := some q.seq
      closing := off + 1 == c.desc.len } := by
  simp only [steerWrite, hc, hb, hq]
  rfl

theorem openPass_of_opens {s : State} {n : Nat} {c : Channel} (hc : s.channel? n = some c) (ho : opensPass s c = true) :
    openPass n s = (s.modChannel n fun c => c.opened s.clock).mark (.chanBlock n) := by
  simp [openPass, hc, ho]

theorem openPass_of_not_opens {s : State} {n : Nat} {c : Channel} (hc : s.channel? n = some c)
    (ho : opensPass s c = false) : openPass n s = s := by
  simp [openPass, hc, ho]

/-- R9: the channels after the fill deadline of channel `n` is cancelled, where `closing` holds. -/
theorem channel?_cancelFillDeadline (s : State) (n : Nat) (closing : Bool) (m : Nat) :
    (if closing then cancelFillDeadline n s else s).channel? m =
      if m = n then (s.channel? n).map fun c =>
        { c with pass := c.pass.map fun p => { p with deadline := if closing then none else p.deadline } }
      else s.channel? m := by
  cases closing
  · by_cases h : m = n
    · subst h
      cases hc : s.channel? m with
      | none => simp [hc]
      | some c => simp [hc]
    · simp [h]
  · exact State.channel?_modChannel s n m _

/-- R7, R9: a producer write from the state `s1` in which the pass that it belongs to stands open. -/
theorem takeProducerWrite_eq {s s1 : State} {n off : Nat} {c : Channel} {q : FillPass} (hs : openPass n s = s1)
    (hc : s1.channel? n = some c) (hb : writeBarred s1 c = false) (hq : c.pass = some q) : takeProducerWrite n off s =
    ({ s1 with channels := (if off + 1 == c.desc.len then cancelFillDeadline n s1 else s1).channels },
      { ch := n
        side := .producer
        steer := match q.target with
          | .buffer b => .buffer b (c.desc.base b + BitVec.ofNat 17 off)
          | .shed => .nowhere
        passSeq := some q.seq
        closing := off + 1 == c.desc.len }) := by
  unfold takeProducerWrite
  simp only [hs, steerWrite_of_pass hc hb hq, Option.isSome_some, Bool.and_true]
  cases off + 1 == c.desc.len <;> rfl

/-- R8: a producer write that is barred changes nothing. -/
theorem takeProducerWrite_of_barred {s : State} {n off : Nat} {c : Channel} (hc : s.channel? n = some c)
    (hb : writeBarred s c = true) : takeProducerWrite n off s =
    (s, { ch := n, side := .producer, steer := .nowhere, passSeq := none, closing := off + 1 == c.desc.len }) := by
  have ho : opensPass s c = false := by
    simp only [writeBarred, Bool.or_eq_true, beq_iff_eq] at hb
    rcases hb with h | h <;> simp [opensPass, h]
  unfold takeProducerWrite
  simp [openPass_of_not_opens hc ho, steerWrite_of_barred hc hb]

/-- R7: the event of a producer write that changes channels and marks alone, and no level of a channel. -/
theorem exec_producerWrite {s u : State} {p : Port} {a : LogAddr} {l : Lanes} {v : Word} {n off : Nat} {c : Channel}
    {C : Vector (Option Channel) 24} {M : Mirror} {o : ChannelAccess} (hu : u = settle s) (ht : Takes u p)
    (hl : landing u a = .channel n off) (hc : u.channel? n = some c) (hp : c.desc.producer = p)
    (hr : takeProducerWrite n off (drivePort p (Drive.write a l v) u) =
      ({ drivePort p (Drive.write a l v) u with channels := C, mirror := M }, o))
    (hlev : ∀ m, (State.channel? { u with channels := C } m).map Channel.levels = (u.channel? m).map Channel.levels) :
    exec (.producerWrite p a l v) s =
      .next (grant { u.taking p (Drive.write a l v) (.channel o) false with channels := C, mirror := M }) := by
  have htake : present p (Drive.write a l v) u =
      { u.taking p (Drive.write a l v) (.channel o) false with channels := C, mirror := M } := by
    have hl' : landing (drivePort p (Drive.write a l v) u) (Drive.write a l v).addr = .channel n off := hl
    have hc' : (drivePort p (Drive.write a l v) u).channel? n = some c := hc
    rw [present_of_takes ht, take_of_producer hl' hc' hp, hr]
    rfl
  have hsame : ∀ y, pendingSet
      { u.taking p (Drive.write a l v) (.channel o) false with channels := C, mirror := M } y = pendingSet u y :=
    fun y => pendingSet_of_levels rfl rfl hlev ⟨rfl, rfl⟩
  have hexec : exec (.producerWrite p a l v) s = .next (grant (noteReports u (present p (Drive.write a l v) u))) := by
    rw [hu]; rfl
  rw [hexec, htake, noteReports_of_same hsame]

/-- Settles O16: the pass opens, the write is its first, and no pending set reads what has changed. -/
theorem aProducerWriteOpensAPass : Obligations.AProducerWriteOpensAPass := by
  intro s p a l v n off c u closing htake hland hc hprod hrun hhalt hpass
  have hu : u = settle s := rfl
  clear_value u
  let x := drivePort p (Drive.write a l v) u
  let x1 := (x.modChannel n fun c => c.opened x.clock).mark (.chanBlock n)
  have hopens : opensPass x c = true := by simp [opensPass, x, hrun, hhalt, hpass]
  have hx1c : x1.channel? n = some (c.opened u.clock) := by simp [x1, hc, x]
  have hbar : writeBarred x1 (c.opened u.clock) = false := by simp [writeBarred, x1, x, hrun, Channel.opened, hhalt]
  let C := (if closing then cancelFillDeadline n x1 else x1).channels
  have hr : takeProducerWrite n off x = ({ x with channels := C, mirror := x1.mirror },
      { ch := n
        side := .producer
        steer := match c.chooseTarget with
          | .buffer b => .buffer b (c.desc.base b + BitVec.ofNat 17 off)
          | .shed => .nowhere
        passSeq := some (c.fillSeq + 1)
        closing := closing }) :=
    takeProducerWrite_eq (openPass_of_opens (s := x) hc hopens) hx1c hbar rfl
  have hC : ∀ m, State.channel? { u with channels := C } m = if m = n then some { c with
      fillSeq := c.fillSeq + 1
      pass := some
        { target := c.chooseTarget
          seq := c.fillSeq + 1
          openTime := u.clock
          deadline := if closing then none else formDeadline u.clock c.desc.fillLimit } } else u.channel? m := by
    intro m
    refine (channel?_cancelFillDeadline x1 n closing m).trans ?_
    rw [hx1c]
    split
    · rfl
    · rename_i h; simp [x1, h, x]
  have hlev : ∀ m, (State.channel? { u with channels := C } m).map Channel.levels = (u.channel? m).map Channel.levels := by
    intro m
    rw [hC]
    split
    · rename_i h; subst h; rw [hc]; rfl
    · rfl
  have hexec := exec_producerWrite hu htake hland hc hprod hr hlev
  refine ⟨_, hexec, ?_, fun m hm => ?_, rfl, ?_⟩
  · exact (hC n).trans (if_pos rfl)
  · exact (hC m).trans (if_neg hm)
  · exact (marks_mark u (.chanBlock n)).trans (Marks.of_mirror rfl) |>.congr (by simp)

/-- Settles O17: the write joins the pass that stands open, or is barred and belongs to none. -/
theorem aProducerWriteJoinsTheOpenPassOrIsDropped : Obligations.AProducerWriteJoinsTheOpenPassOrIsDropped := by
  intro s p a l v n off c u closing htake hland hc hprod
  have hu : u = settle s := rfl
  clear_value u
  refine ⟨fun q hrun hhalt hpass => ?_, fun hbarred => ?_⟩
  · let x := drivePort p (Drive.write a l v) u
    let C := (if closing then cancelFillDeadline n x else x).channels
    have hopens : opensPass x c = false := by simp [opensPass, hpass]
    have hbar : writeBarred x c = false := by simp [writeBarred, x, hrun, hhalt]
    have hr := takeProducerWrite_eq (off := off) (openPass_of_not_opens (s := x) hc hopens) hc hbar hpass
    have hC : ∀ m, State.channel? { u with channels := C } m = if m = n then
        some { c with pass := some { q with deadline := if closing then none else q.deadline } } else u.channel? m := by
      intro m
      refine (channel?_cancelFillDeadline x n closing m).trans ?_
      rw [show x.channel? n = some c from hc]
      simp [hpass, x]
    have hlev : ∀ m, (State.channel? { u with channels := C } m).map Channel.levels =
        (u.channel? m).map Channel.levels := by
      intro m
      rw [hC]
      split
      · rename_i h; subst h; rw [hc]; rfl
      · rfl
    exact ⟨_, exec_producerWrite (M := u.mirror) hu htake hland hc hprod hr hlev, (hC n).trans (if_pos rfl),
      fun m hm => (hC m).trans (if_neg hm), rfl⟩
  · have hbar : writeBarred (drivePort p (Drive.write a l v) u) c = true := by
      rcases hbarred with h | h <;> simp [writeBarred, h]
    exact exec_producerWrite (C := u.channels) (M := u.mirror) hu htake hland hc hprod
      (takeProducerWrite_of_barred hc hbar) fun _ => rfl

/-! ### Producer reads (R17) -/

/-- R17: the buffer that a producer read is served from. -/
theorem producerReadBuffer_eq (s : State) (c : Channel) : producerReadBuffer s c =
    if s.partState = .holdover ∨ c.halted = true then c.live
    else match c.filling with
      | some b => some b
      | none => c.live := by
  have hbar : writeBarred s c = true ↔ s.partState = .holdover ∨ c.halted = true := by simp [writeBarred]
  unfold producerReadBuffer
  by_cases h : writeBarred s c = true
  · rw [if_pos h, if_pos (hbar.1 h)]
  · rw [if_neg h, if_neg fun h' => h (hbar.2 h')]
    unfold Channel.filling Target.buffer?
    cases c.pass with
    | none => rfl
    | some q => cases ht : q.target <;> simp [ht]

theorem steerProducerRead_eq {s : State} {n off : Nat} {c : Channel} (hc : s.channel? n = some c) :
    steerProducerRead s n off =
      { ch := n
        side := .producer
        steer := match producerReadBuffer s c with
          | some b => .buffer b (c.desc.base b + BitVec.ofNat 17 off)
          | none => .nowhere
        passSeq := none
        closing := false } := by
  unfold steerProducerRead
  simp only [hc]
  cases producerReadBuffer s c <;> rfl

/-- An event that neither changes a pending set nor does more than take an access. -/
theorem noteReports_taking (u : State) (p : Port) (d : Drive) (o : Decoded) (e : Bool) :
    noteReports u (u.taking p d o e) = u.taking p d o e :=
  noteReports_of_same fun _ => pendingSet_congr rfl rfl (fun _ => rfl) ⟨rfl, rfl⟩

/-- Settles O18: the read is steered by R17 and changes nothing but its port. -/
theorem aProducerReadIsServedFromTargetOrLive : Obligations.AProducerReadIsServedFromTargetOrLive := by
  intro s p a n off c u served htake hland hc hprod
  have hu : u = settle s := rfl
  clear_value u
  let x := drivePort p (Drive.read a) u
  have hx : x.channel? n = some c := hc
  have hl : landing x (Drive.read a).addr = .channel n off := hland
  have hexec : exec (.producerRead p a) s = .next (grant (noteReports u (present p (Drive.read a) u))) := by
    rw [hu]; rfl
  rw [hexec, present_of_takes htake, take_of_producer hl hx hprod, steerProducerRead_eq hx,
    show producerReadBuffer x c = served from producerReadBuffer_eq x c]
  exact congrArg (fun w => Host.Outcome.next (grant w)) (noteReports_taking u p _ _ _)

/-! ### Rearm (R24) -/

/-- The channels whose halted field a REARM take by port `x` of value `v` clears. -/
def rearmClears (s : State) (x : Port) (v : Word) (n : Nat) : Bool :=
  match s.channel? n with
  | some c => v.getLsbD n && c.desc.producer == x && c.halted
  | none => false

theorem rearmClears_congr {s t : State} {n : Nat} (h : t.channel? n = s.channel? n) {x : Port} {v : Word} :
    rearmClears t x v n = rearmClears s x v n := by
  unfold rearmClears
  rw [h]

theorem rearmOne_eq (x : Port) (v : Word) (s : State) (n : Nat) : rearmOne x v s n =
    if rearmClears s x v n then (s.modChannel n fun c => { c with halted := false }).mark (.chanBlock n) else s := by
  unfold rearmOne rearmClears
  cases s.channel? n <;> rfl

/-- What a REARM take has done once the places of `is` have been visited. -/
theorem rearm_fold (x : Port) (v : Word) (is : List Nat) (hd : is.Nodup) (s : State) :
    let t := is.foldl (rearmOne x v) s
    (∀ m, t.channel? m = (s.channel? m).map fun c =>
      { c with halted := c.halted && !(decide (m ∈ is) && rearmClears s x v m) }) ∧
    Marks s t ((is.filter (rearmClears s x v)).map .chanBlock) := by
  induction is generalizing s with
  | nil => exact ⟨fun m => by simp, Marks.refl s⟩
  | cons n rest ih =>
    obtain ⟨hn, hrest⟩ := List.nodup_cons.1 hd
    let s1 := rearmOne x v s n
    have hch : ∀ m, s1.channel? m = (s.channel? m).map fun c =>
        { c with halted := c.halted && !(decide (m = n) && rearmClears s x v m) } := by
      intro m
      simp only [s1, rearmOne_eq]
      by_cases hm : m = n
      · subst hm
        cases hcl : rearmClears s x v m <;> simp
      · cases rearmClears s x v n <;> simp [hm]
    have hmk : Marks s s1 (if rearmClears s x v n then [.chanBlock n] else []) := by
      simp only [s1, rearmOne_eq]
      split
      · exact (marks_modChannel s n _).trans (marks_mark _ (.chanBlock n))
      · exact Marks.refl s
    have hcl : ∀ m, m ≠ n → rearmClears s1 x v m = rearmClears s x v m := by
      intro m hm
      unfold rearmClears
      rw [hch m]
      cases s.channel? m <;> simp [hm]
    obtain ⟨h1, h3⟩ := ih hrest s1
    have hfilter : rest.filter (rearmClears s1 x v) = rest.filter (rearmClears s x v) :=
      List.filter_congr fun m hm => hcl m fun e => hn (e ▸ hm)
    simp only [List.foldl_cons]
    refine ⟨fun m => ?_, ?_⟩
    · rw [h1 m, hch m, Option.map_map]
      congr 1
      funext c
      by_cases hm : m = n
      · subst hm; simp [hn]
      · simp [hm, hcl m hm]
    · rw [hfilter] at h3
      refine (hmk.trans h3).congr fun i => ?_
      cases h : rearmClears s x v n <;> simp [h]

/-- R24: what a REARM take changes. -/
theorem rearm_eq (x : Port) (v : Word) (s : State) :
    rearm x v s = { s with channels := (rearm x v s).channels, mirror := (rearm x v s).mirror } := by
  have hone : ∀ t n, (rearmOne x v t n).groups = t.groups ∧ (rearmOne x v t n).journals = t.journals ∧
      (rearmOne x v t n).attention = t.attention := by
    intro t n
    rw [rearmOne_eq]
    split <;> exact ⟨rfl, rfl, rfl⟩
  exact (rearm_only x v s).eq_of (foldl_field State.groups _ (fun t n => (hone t n).1) _ s)
    (foldl_field State.journals _ (fun t n => (hone t n).2.1) _ s)
    (foldl_field State.attention _ (fun t n => (hone t n).2.2) _ s)

/-- R24: the halted fields that a REARM take clears, and the blocks that it marks. -/
theorem rearm_spec (x : Port) (v : Word) (s : State) :
    (∀ m, (rearm x v s).channel? m = (s.channel? m).map fun c =>
      { c with halted := c.halted && !(decide (m ∈ indices) && rearmClears s x v m) }) ∧
    Marks s (rearm x v s) ((indices.filter (rearmClears s x v)).map .chanBlock) :=
  rearm_fold x v indices List.nodup_range s

theorem decodeAndAct_rearm (p : Port) (v : Word) (s : State) : decodeAndAct p (triggerDrive (.rearm p) v) s =
    (rearm p v s, .control (.trigger (.rearm p)) true ((triggerDrive (.rearm p) v).addr.setWidth 17)) := by
  cases p <;> rfl

/-- Settles O24: the take reaches the owner, which visits every place once. -/
theorem aRearmTakeClearsTheHaltsItNames : Obligations.ARearmTakeClearsTheHaltsItNames := by
  intro s p v u d cleared htake
  have hu : u = settle s := rfl
  clear_value u
  let o : Decoded := .control (.trigger (.rearm p)) true (d.addr.setWidth 17)
  generalize hx : drivePort p d u = x
  have hxu : Marks u x [] ∧ (∀ n, x.channel? n = u.channel? n) := by rw [← hx]; exact ⟨Marks.of_mirror rfl, fun _ => rfl⟩
  obtain ⟨hch, hmk⟩ := rearm_spec p v x
  have hr := rearm_eq p v x
  have hclears : ∀ n, rearmClears x p v n = cleared n := fun n => (rearmClears_congr (hxu.2 n)).trans rfl
  have hpres : present p d u = (rearm p v x).setAccess p
      (.taken { drive := d, outcome := o, err := false, withdrawn := false }) := by
    rw [present_of_takes htake, hx]
    exact take_of_allowed (decodeAndAct_rearm p v x) rfl
  generalize rearm p v x = r at hch hmk hr hpres
  let y := { u.taking p d o false with channels := r.channels, mirror := r.mirror }
  have hy : present p d u = y := by
    rw [hpres, hr, ← hx]
    rfl
  have hexec : exec (.rearmTake p v) s = .next (grant (noteReports u (present p d u))) := by
    rw [hu]; rfl
  rw [hy] at hexec
  refine ⟨noteReports u y, hexec, fun n => ?_, by rw [channels_noteReports]; exact noteReports_eq u y, ?_⟩
  · rw [channel?_congr (channels_noteReports u y) n, show y.channel? n = r.channel? n from rfl, hch n, hxu.2]
    cases hn : u.channel? n with
    | none => rfl
    | some c => simp [hclears, mem_indices, State.channel?_lt hn]
  · have hmarks : Marks u y ((indices.filter cleared).map .chanBlock) := by
      refine ((hxu.1.trans hmk).trans (Marks.of_mirror rfl)).congr fun i => ?_
      rw [show rearmClears x p v = cleared from funext hclears]
      simp
    rw [changedReports_noteReports]
    exact hmarks.trans (marks_noteReports u y)

end Sys2Proof.Machine

/-! SUPPORT. The completion of an access, with and without a memory cycle (R93, R94, R97), and the completions that close
nothing. -/
namespace Sys2Proof.Machine

/-! ### The end of a port's cycle and the completion without a cycle -/

theorem exec_memoryCycleEnd {s u : State} (hu : u = settle s) :
    exec .memoryCycleEnd s = .next (grant (noteReports u (memoryCycleEnd u))) := by
  rw [hu]; rfl

theorem exec_cyclelessCompletion {s u : State} (hu : u = settle s) (p : Port) :
    exec (.cyclelessCompletion p) s = .next (grant (noteReports u (completeCycleless p u))) := by
  rw [hu]; rfl

/-- R97: what the end of cycle `c` has done before the access completes: the M port is free, a write has landed. -/
def State.cycleEnded (s : State) (c : MCycle) : State := { s with cycle := none, mem := cycleMem s.mem c }

theorem memoryCycleEnd_of_port {s : State} {p : Port} {t : Taken} {c : MCycle} (hc : s.cycle = some c)
    (hp : c.use = .port p) (ha : s.access p = .inCycle t) :
    memoryCycleEnd s = complete p t (cycleWord s.mem c) (cycleErrors s.mem c) (s.cycleEnded c) := by
  unfold memoryCycleEnd
  simp only [hc, hp, ha, State.cycleEnded]

theorem completeCycleless_of_taken {s : State} {p : Port} {t : Taken} (ha : s.access p = .taken t)
    (hn : t.outcome.phys? = none) : completeCycleless p s = complete p t 0 0 s := by
  simp [completeCycleless, ha, hn]

@[simp] theorem pendingSet_setAccess (s : State) (p : Port) (a : AccessState) (q : Port) :
    pendingSet (s.setAccess p a) q = pendingSet s q := rfl

@[simp] theorem pendingSet_cycleEnded (s : State) (c : MCycle) (q : Port) :
    pendingSet (s.cycleEnded c) q = pendingSet s q := rfl

/-! ### Completions that close nothing (R10) -/

/-- R94: REQ that has risen again under a withdrawn access is an arrival at its completion. -/
theorem finishPort_of_requested {s : State} {p : Port} {t : Taken} (w : Word) (e : Lanes) (ht : t.withdrawn = true)
    (hr : (s.ports.get p).req = true) :
    finishPort p t w e s = arrive p (s.ports.get p).inputs (s.setAccess p .idle) := by
  unfold finishPort arriveIfRequested
  simp [ht, hr]

/-- R93, R94: an event whose completion closes nothing, in both of its cases. -/
theorem completion_of_closesNothing {u x : State} {p : Port} {t : Taken} (w : Word) (h : ClosesNothing x t)
    (hx : ∀ q, pendingSet x q = pendingSet u q) (hports : x.ports = u.ports) :
    (NoNewArrival u p t → noteReports u (complete p t w 0 x) = x.setAccess p (t.ended w t.err)) ∧
    (t.withdrawn = true → (u.ports.get p).req = true → complete p t w 0 x =
      arrive p (u.ports.get p).inputs (x.setAccess p .idle)) := by
  rw [complete_of_closesNothing p w h, ← hports]
  refine ⟨fun hn => ?_, fun ht hr => finishPort_of_requested w 0 ht hr⟩
  have hn' : NoNewArrival x p t := fun ht => by rw [hports]; exact hn ht
  rw [finishPort_of_noNewArrival w 0 hn']
  simp only [bne_self_eq_false, Bool.false_and, Bool.or_false]
  exact noteReports_of_same fun q => by rw [pendingSet_setAccess, hx]

/-- Settles O26: nothing is reported, nothing closes, and the port finishes. -/
theorem anAccessWithoutACycleCompletes : Obligations.AnAccessWithoutACycleCompletes := by
  intro s p t u ha hn hcl
  have hu : u = settle s := rfl
  clear_value u
  obtain ⟨h1, h2⟩ := completion_of_closesNothing (p := p) 0 hcl (fun _ => rfl) rfl
  rw [exec_cyclelessCompletion hu, completeCycleless_of_taken ha hn]
  exact ⟨fun hna => by rw [h1 hna], fun hw hr => by rw [h2 hw hr]⟩

/-- Settles O29: the cycle's end frees the M port and lands a write; then the port finishes as in O26. -/
theorem aPortCycleCompletesItsAccess : Obligations.APortCycleCompletesItsAccess := by
  intro s p t c u x hc hp ha _ hcl herr
  have hu : u = settle s := rfl
  clear_value u
  have hx : u.cycleEnded c = x := by
    unfold State.cycleEnded cycleMem
    cases hw : c.wr <;> simp [x, hw]
  have hword : cycleWord u.mem c = if c.wr then 0 else u.mem.word c.addr := rfl
  have herr' : cycleErrors u.mem c = 0 := by
    unfold cycleErrors
    cases hw : c.wr
    · exact herr hw
    · rfl
  obtain ⟨h1, h2⟩ := completion_of_closesNothing (p := p) (u := u) (x := u.cycleEnded c) (cycleWord u.mem c) hcl
    (fun _ => rfl) rfl
  rw [exec_memoryCycleEnd hu, memoryCycleEnd_of_port hc hp ha, herr']
  exact ⟨fun hna => by rw [h1 hna, hx, hword], fun hw hr => by rw [h2 hw hr, hx]⟩

end Sys2Proof.Machine

/-! SUPPORT. What the exchange unit tells the two processors in one event (R136 to R139, R155): the records offered to each
journal, the causes raised for each port and the items marked add up along the operations of the event. -/
namespace Sys2Proof.Machine

/-! ### Offers and raises to one port -/

@[simp] theorem told_told (a : Attention) (c d : BitVec 12) (now : Word) (j : Journal) (rs qs : List Record) :
    (a.told c now j rs).told d now (offers now j rs) qs = a.told (c ||| d) now j (rs ++ qs) := by
  have hlose : causeIf .journalLost (offersLose now j (rs ++ qs)) =
      causeIf .journalLost (offersLose now j rs) ||| causeIf .journalLost (offersLose now (offers now j rs) qs) := by
    rw [offersLose_append]
    cases offersLose now j rs <;> cases offersLose now (offers now j rs) qs <;> simp [causeIf]
  unfold Attention.told
  simp only [hlose]
  congr 1
  ac_rfl

@[simp] theorem told_nil (a : Attention) (now : Word) (j : Journal) : a.told 0#12 now j [] = a := by
  simp [Attention.told, offersLose, causeIf]

theorem told_offer (a : Attention) (now : Word) (j : Journal) (r : Record) :
    a.told 0 now j [r] = { a with latched := a.latched ||| causeIf .journalLost (lossBegins j (j.offer r now)) } := by
  simp [Attention.told, offersLose]

theorem told_raise (a : Attention) (c : BitVec 12) (now : Word) (j : Journal) :
    a.told c now j [] = { a with latched := a.latched ||| c } := by
  simp [Attention.told, offersLose, causeIf]

/-! ### What an event has told -/

/-- `rs`, given to port `x` alone. -/
def onlyTo {α : Type} (x : Port) (d a : α) (p : Port) : α := if p = x then a else d

/-- From `s` to `t` the records `rs p` have been offered to port `p`'s journal, in order, and the causes `cs p` raised for it;
beside what the offers mark, exactly the items `is` have been marked. -/
structure Tells (s t : State) (rs : Port → List Record) (cs : Port → BitVec 12) (is : List MirrorItem) : Prop where
  clock : t.clock = s.clock
  journal : ∀ p, t.journals.get p = offers s.clock (s.journals.get p) (rs p)
  attention : ∀ p, t.attention.get p = (s.attention.get p).told (cs p) s.clock (s.journals.get p) (rs p)
  marks : Marks s t (is ++ offersMark s.clock .A (s.journals.get .A) (rs .A) ++
    offersMark s.clock .B (s.journals.get .B) (rs .B))

/-- No record and no cause. -/
theorem Tells.of_marks {s t : State} {is : List MirrorItem} (hc : t.clock = s.clock) (hj : t.journals = s.journals)
    (ha : t.attention = s.attention) (hm : Marks s t is) : Tells s t (fun _ => []) (fun _ => 0) is :=
  ⟨hc, fun p => by rw [hj, offers_nil], fun p => by rw [ha]; exact (told_nil _ _ _).symm, hm.congr fun i => by simp [offersMark]⟩

theorem Tells.trans {s t u : State} {rs qs : Port → List Record} {cs ds : Port → BitVec 12} {is js : List MirrorItem}
    (h : Tells s t rs cs is) (k : Tells t u qs ds js) :
    Tells s u (fun p => rs p ++ qs p) (fun p => cs p ||| ds p) (is ++ js) where
  clock := k.clock.trans h.clock
  journal p := by rw [k.journal, h.journal, h.clock, offers_append]
  attention p := by rw [k.attention, h.attention, h.journal, h.clock, told_told]
  marks := by
    have hk := k.marks
    rw [h.journal, h.journal, h.clock] at hk
    refine (h.marks.trans hk).congr fun i => ?_
    simp only [offersMark_append, List.mem_append]
    tauto

theorem Tells.congr {s t : State} {rs qs : Port → List Record} {cs ds : Port → BitVec 12} {is js : List MirrorItem}
    (h : Tells s t rs cs is) (hr : ∀ p, qs p = rs p) (hc : ∀ p, ds p = cs p) (hi : ∀ i, i ∈ js ↔ i ∈ is) :
    Tells s t qs ds js where
  clock := h.clock
  journal p := by rw [hr]; exact h.journal p
  attention p := by rw [hr, hc]; exact h.attention p
  marks := h.marks.congr fun i => by simp only [hr, List.mem_append, hi]

theorem tells_refl (s : State) : Tells s s (fun _ => []) (fun _ => 0) [] := .of_marks rfl rfl rfl (Marks.refl s)

theorem tells_mark (s : State) (i : MirrorItem) : Tells s (s.mark i) (fun _ => []) (fun _ => 0) [i] :=
  .of_marks rfl rfl rfl (marks_mark s i)

theorem tells_modChannel (s : State) (n : Nat) (f : Channel → Channel) :
    Tells s (s.modChannel n f) (fun _ => []) (fun _ => 0) [] := .of_marks rfl rfl rfl (marks_modChannel s n f)

theorem tells_modGroup (s : State) (g : Nat) (f : Group → Group) :
    Tells s (s.modGroup g f) (fun _ => []) (fun _ => 0) [] := .of_marks rfl rfl rfl (marks_modGroup s g f)

theorem tells_raise (s : State) (x : Port) (c : Cause) :
    Tells s (s.raise x c) (fun _ => []) (onlyTo x 0 c.bit) [] where
  clock := rfl
  journal _ := rfl
  attention p := by
    by_cases h : p = x
    · subst h
      simp [onlyTo, told_raise]
    · simp [onlyTo, h, Both.get_modify_of_ne _ h]
  marks := (marks_raise s x c).congr fun i => by simp [offersMark]

theorem tells_offer (s : State) (x : Port) (r : Record) : Tells s (s.offer x r) (onlyTo x [] [r]) (fun _ => 0) [] where
  clock := rfl
  journal p := by
    by_cases h : p = x
    · subst h
      simp [onlyTo, offers]
    · simp [onlyTo, h, offers, Both.get_set_of_ne _ h]
  attention p := by
    by_cases h : p = x
    · subst h
      simp only [onlyTo, if_true, told_offer, State.offer]
      split
      · rename_i hl; simp [causeIf, hl]
      · rename_i hl; simp [causeIf, hl]
    · simp [onlyTo, h, offer_attention_of_ne _ h]
  marks := (marks_offer s x r).congr fun i => by
    cases x <;> simp [onlyTo, offersMark]

/-- An event that tells one port alone changes that port's journal and attention state as the statements say it. -/
theorem Tells.to_one {s t : State} {x : Port} {rs : List Record} {c : BitVec 12} {is : List MirrorItem}
    (h : Tells s t (onlyTo x [] rs) (onlyTo x 0 c) is) :
    t.journals = s.journals.set x (offers s.clock (s.journals.get x) rs) ∧
    t.attention = (s.attention.modify x fun b => b.told c s.clock (s.journals.get x) rs) ∧
    Marks s t (is ++ offersMark s.clock x (s.journals.get x) rs) := by
  refine ⟨Both.ext_get fun p => ?_, Both.ext_get fun p => ?_, h.marks.congr fun i => ?_⟩
  · rw [h.journal]
    by_cases hp : p = x
    · subst hp; simp [onlyTo]
    · simp [onlyTo, hp, offers_nil, Both.get_set_of_ne _ hp]
  · rw [h.attention]
    by_cases hp : p = x
    · subst hp; simp [onlyTo]
    · simp [onlyTo, hp, Both.get_modify_of_ne _ hp]
  · cases x <;> simp [onlyTo, offersMark]

theorem onlyTo_append (x : Port) (rs qs : List Record) (p : Port) :
    onlyTo x [] rs p ++ onlyTo x [] qs p = onlyTo x [] (rs ++ qs) p := by
  unfold onlyTo; split <;> rfl

theorem onlyTo_or (x : Port) (c d : BitVec 12) (p : Port) :
    onlyTo x 0 c p ||| onlyTo x 0 d p = onlyTo x 0 (c ||| d) p := by
  unfold onlyTo; split <;> simp

end Sys2Proof.Machine

/-! SUPPORT. The ends of a fill pass (R10 to R14, R19, R22): what each does to the channels and the groups, and what it tells. -/
namespace Sys2Proof.Machine

theorem group?_congr {s t : State} (h : t.groups = s.groups) (g : Nat) : t.group? g = s.group? g := by
  unfold State.group?
  rw [h]

/-! ### A pass that ends without an image (R13, R14, R22) -/

/-- R13 and R14 are one operation with two records: the pass is gone, its record and FILL_FAULT go to the producer, and under
STOP_ON_ERROR the channel halts. -/
def faultPass (n : Nat) (c : Channel) (p : FillPass) (expired : Bool) (r : Record) (s : State) : State :=
  let s1 := (s.modChannel n fun c => { c with pass := none }).mark (.chanBlock n)
  let s2 := (s1.offer c.desc.producer r).raise c.desc.producer .fillFault
  if c.desc.stopOnError then haltChannel n c.desc.producer expired p s2 else s2

theorem closeShed_eq (n : Nat) (c : Channel) (p : FillPass) (s : State) :
    closeShed n c p s = faultPass n c p false (mkRecord .shed n none 0 p.seq p.openTime s.clock) s := rfl

theorem expirePass_eq {s : State} {n : Nat} {c : Channel} {p : FillPass} (hc : s.channel? n = some c)
    (hp : c.pass = some p) : expirePass n s = faultPass n c p true
      (mkRecord .fillExpired n p.target.buffer? (flagBit 0 (p.target == .shed)) p.seq p.openTime s.clock) s := by
  unfold expirePass faultPass
  simp only [hc, hp]

theorem channel?_haltChannel (n : Nat) (x : Port) (e : Bool) (p : FillPass) (s : State) (m : Nat) :
    (haltChannel n x e p s).channel? m =
      if m = n then (s.channel? n).map fun c => { c with halted := true } else s.channel? m := by
  simp only [haltChannel, State.mark_channel_at, State.offer_channel_at, State.channel?_modChannel]

theorem channel?_faultPass {s : State} {n : Nat} {c : Channel} (hc : s.channel? n = some c) (p : FillPass) (e : Bool)
    (r : Record) (m : Nat) : (faultPass n c p e r s).channel? m =
      if m = n then some { c with pass := none, halted := c.halted || c.desc.stopOnError } else s.channel? m := by
  have hs2 : ∀ k, ((((s.modChannel n fun c => { c with pass := none }).mark (.chanBlock n)).offer
      c.desc.producer r).raise c.desc.producer .fillFault).channel? k =
        if k = n then some { c with pass := none } else s.channel? k := by
    intro k
    simp only [State.raise_channel_at, State.offer_channel_at, State.mark_channel_at, State.channel?_modChannel, hc,
      Option.map_some]
  simp only [faultPass]
  cases hstop : c.desc.stopOnError
  · simp only [Bool.false_eq_true, if_false, hs2, Bool.or_false]
  · simp only [if_true, channel?_haltChannel, hs2, Bool.or_true, Option.map_some]
    by_cases hm : m = n <;> simp [hm]

theorem groups_faultPass (n : Nat) (c : Channel) (p : FillPass) (e : Bool) (r : Record) (s : State) :
    (faultPass n c p e r s).groups = s.groups := by
  simp only [faultPass, haltChannel]
  split <;> simp only [State.mark_groups, State.raise_groups, State.offer_groups, State.modChannel_groups]

theorem faultPass_only (n : Nat) (c : Channel) (p : FillPass) (e : Bool) (r : Record) (s : State) :
    OnlyExchange s (faultPass n c p e r s) := by
  have h := ((((OnlyExchange.refl s).modChannel n fun c => { c with pass := none }).mark (.chanBlock n)).offer
    c.desc.producer r).raise c.desc.producer .fillFault
  unfold faultPass
  dsimp only
  split
  · exact h.trans (haltChannel_only _ _ _ _ _)
  · exact h

theorem tells_haltChannel (n : Nat) (x : Port) (e : Bool) (p : FillPass) (s : State) :
    Tells s (haltChannel n x e p s)
      (onlyTo x [] [mkRecord .halted n none (if e then flagBit 1 true else flagBit 0 true) p.seq p.openTime s.clock])
      (fun _ => 0) [.chanBlock n] :=
  (((tells_modChannel s n _).trans (tells_offer _ x _)).trans (tells_mark _ (.chanBlock n))).congr
    (fun p => by simp) (fun p => by simp) (fun i => by simp)

theorem tells_faultPass (n : Nat) (c : Channel) (p : FillPass) (e : Bool) (r : Record) (s : State) :
    Tells s (faultPass n c p e r s)
      (onlyTo c.desc.producer [] (r :: if c.desc.stopOnError then
        [mkRecord .halted n none (if e then flagBit 1 true else flagBit 0 true) p.seq p.openTime s.clock] else []))
      (onlyTo c.desc.producer 0 Cause.fillFault.bit) [.chanBlock n] := by
  have h := (((tells_modChannel s n fun c => { c with pass := none }).trans (tells_mark _ (.chanBlock n))).trans
    (tells_offer _ c.desc.producer r)).trans (tells_raise _ c.desc.producer .fillFault)
  unfold faultPass
  dsimp only
  split
  · refine (h.trans (tells_haltChannel n c.desc.producer e p _)).congr (fun y => ?_) (fun y => by simp) (fun i => by simp)
    simp only [List.nil_append, List.append_nil, onlyTo_append]
    rfl
  · exact h.congr (fun y => by simp) (fun y => by simp) (fun i => by simp)

/-! ### Publication (R19, R20) -/

@[simp] theorem groups_publish (n b : Nat) (q x : Word) (s : State) : (publish n b q x s).groups = s.groups := by
  unfold publish
  split
  · rfl
  · dsimp only
    split
    · simp only [State.raise_groups, State.offer_groups, State.mark_groups, State.modChannel_groups]
    · rfl

/-- R20: the records of a publication. -/
theorem tells_publish {s : State} {n : Nat} {c : Channel} (hc : s.channel? n = some c) (b : Nat) (q x : Word) :
    Tells s (publish n b q x s)
      (onlyTo c.desc.consumer [] (if c.desc.notify then [publishedRecord n b q x s.clock] else []))
      (onlyTo c.desc.consumer 0 (causeIf .publish c.desc.notify)) [.chanBlock n] := by
  have h1 := (tells_modChannel s n fun c => c.published b s.clock).trans (tells_mark _ (.chanBlock n))
  unfold publish
  simp only [hc]
  cases hn : c.desc.notify with
  | false => exact h1.congr (fun y => by simp [onlyTo]) (fun y => by simp [onlyTo, causeIf]) (fun i => by simp)
  | true =>
    exact ((h1.trans (tells_offer _ c.desc.consumer _)).trans (tells_raise _ c.desc.consumer .publish)).congr
      (fun y => by simp [onlyTo]) (fun y => by simp [onlyTo, causeIf]) (fun i => by simp)

/-! ### A closing write (R10 to R12) -/

theorem exchangeStep_of_closingWrite {t : Taken} {a : ChannelAccess} {seq : Word} (ho : t.outcome = .channel a)
    (hs : a.side = .producer) (hw : t.drive.wr = true) (hcl : a.closing = true) (hq : a.passSeq = some seq) (e : Lanes)
    (s : State) : exchangeStep t e s = closePass a.ch seq s := by
  simp [exchangeStep, ho, exchangeCompletion, hs, hw, hcl, hq]

theorem closePass_of_shed {s : State} {n : Nat} {c : Channel} {q : FillPass} (hc : s.channel? n = some c)
    (hp : c.pass = some q) (ht : q.target = .shed) : closePass n q.seq s = closeShed n c q s := by
  simp [closePass, hc, hp, ht]

theorem closePass_of_immediate {s : State} {n b : Nat} {c : Channel} {q : FillPass} (hc : s.channel? n = some c)
    (hp : c.pass = some q) (ht : q.target = .buffer b) (hm : s.modeOfChannel c = some .immediate) :
    closePass n q.seq s = closeIntoLive n b q s := by
  simp [closePass, hc, hp, ht, hm]

theorem closePass_of_pending {s : State} {n b : Nat} {c : Channel} {q : FillPass} (hc : s.channel? n = some c)
    (hp : c.pass = some q) (ht : q.target = .buffer b) (hm : s.modeOfChannel c ≠ some .immediate) :
    closePass n q.seq s = closeIntoPending n b c q s := by
  simp [closePass, hc, hp, ht, hm]

/-- R11 in an IMMEDIATE group: what the closing write does to the channel. -/
theorem channel?_closeIntoLive {s : State} {n b : Nat} {c : Channel} (hc : s.channel? n = some c) (q : FillPass)
    (m : Nat) : (closeIntoLive n b q s).channel? m =
      if m = n then some (Channel.published { c with pass := none } b s.clock) else s.channel? m := by
  unfold closeIntoLive
  by_cases hm : m = n <;> simp [hm, hc]

theorem tells_closeIntoLive {s : State} {n b : Nat} {c : Channel} (hc : s.channel? n = some c) (q : FillPass) :
    Tells s (closeIntoLive n b q s)
      (onlyTo c.desc.consumer [] (if c.desc.notify then [publishedRecord n b q.seq s.clock s.clock] else []))
      (onlyTo c.desc.consumer 0 (causeIf .publish c.desc.notify)) [.chanBlock n] := by
  have h1 := (tells_modChannel s n fun c => { c with pass := none }).trans (tells_mark _ (.chanBlock n))
  have hn : ((s.modChannel n fun c => { c with pass := none }).mark (.chanBlock n)).channel? n =
      some { c with pass := none } := by simp [hc]
  exact (h1.trans (tells_publish hn b q.seq s.clock)).congr (fun y => by simp) (fun y => by simp) (fun i => by simp)

/-- R12: the record of a superseded buffer. -/
def supersededRecords (n : Nat) (c : Channel) (now : Word) : List Record :=
  match c.pend with
  | some o => [mkRecord .superseded n (some o.buf) 0 o.seq o.closeTime now]
  | none => []

theorem tells_supersede (n : Nat) (c : Channel) (s : State) :
    Tells s (supersede n c s) (onlyTo c.desc.producer [] (supersededRecords n c s.clock)) (fun _ => 0) [] := by
  unfold supersede supersededRecords
  cases c.pend with
  | none => exact (tells_refl s).congr (fun y => by simp [onlyTo]) (fun _ => rfl) (fun _ => Iff.rfl)
  | some o => exact tells_offer s c.desc.producer _

/-- R11, R12: the closing write has made buffer `b` pending, before the group is told. -/
def pendBuffer (n b : Nat) (c : Channel) (q : FillPass) (s : State) : State :=
  (supersede n c ((s.modChannel n fun c => { c with pass := none }).mark (.chanBlock n))).modChannel n fun c =>
    { c with pend := some { buf := b, seq := q.seq, openTime := q.openTime, closeTime := s.clock } }

theorem closeIntoPending_eq (n b : Nat) (c : Channel) (q : FillPass) (s : State) :
    closeIntoPending n b c q s = memberGained c.desc.group (pendBuffer n b c q s) := rfl

theorem pendBuffer_only (n b : Nat) (c : Channel) (q : FillPass) (s : State) : OnlyExchange s (pendBuffer n b c q s) :=
  ((((OnlyExchange.refl s).modChannel n fun c => { c with pass := none }).mark (.chanBlock n)).trans
    (supersede_only n c _)).modChannel n _

theorem channel?_pendBuffer {s : State} {n b : Nat} {c : Channel} (hc : s.channel? n = some c) (q : FillPass) (m : Nat) :
    (pendBuffer n b c q s).channel? m = if m = n then
      some { c with
        pass := none
        pend := some { buf := b, seq := q.seq, openTime := q.openTime, closeTime := s.clock } }
    else s.channel? m := by
  unfold pendBuffer
  rw [State.channel?_modChannel, channel?_congr (channels_supersede n c _), channel?_congr (channels_supersede n c _)]
  by_cases hm : m = n <;> simp [hm, hc]

theorem groups_pendBuffer (n b : Nat) (c : Channel) (q : FillPass) (s : State) :
    (pendBuffer n b c q s).groups = s.groups := by
  unfold pendBuffer supersede
  split
  · simp only [State.modChannel_groups, State.offer_groups, State.mark_groups]
  · rfl

theorem tells_pendBuffer (n b : Nat) (c : Channel) (q : FillPass) (s : State) :
    Tells s (pendBuffer n b c q s) (onlyTo c.desc.producer [] (supersededRecords n c s.clock)) (fun _ => 0)
      [.chanBlock n] :=
  ((((tells_modChannel s n fun c => { c with pass := none }).trans (tells_mark _ (.chanBlock n))).trans
    (tells_supersede n c _)).trans (tells_modChannel _ n _)).congr (fun y => by simp) (fun y => by simp) (fun i => by simp)

/-- R35: a TIMED group does nothing at once. -/
theorem memberGained_of_timed {s : State} {g : Nat} (h : (s.group? g).bind (·.desc.mode) = some .timed) :
    memberGained g s = s := by
  unfold memberGained
  rw [h]

end Sys2Proof.Machine

/-! SUPPORT. The events that end a fill pass: a closing write that completes (R10 to R13) and a fill deadline (R14). -/
namespace Sys2Proof.Machine

/-! ### The event around the exchange unit's part -/

theorem groups_noteReports (b s : State) : (noteReports b s).groups = s.groups := by
  rw [noteReports_eq]

/-- R93: a completion after which no arrival follows, whose exchange unit's part makes `e` of `x`, the state in which the
cycle, if there was one, has ended. -/
theorem completion_frame {u x e : State} {p : Port} {t : Taken} (wd : Word) (he : exchangeStep t 0 x = e)
    (hports : x.ports = u.ports) (hn : NoNewArrival u p t) :
    ∃ w, noteReports u (complete p t wd 0 x) = w ∧ w.channels = e.channels ∧ w.groups = e.groups ∧
      w = { x.setAccess p (t.ended wd t.err) with
        channels := e.channels
        groups := e.groups
        journals := e.journals
        attention := e.attention
        mirror := w.mirror } ∧
      ∀ is, Marks x e is → Marks x w (is ++ changedReports x e ++ changedReports u w) := by
  have ho : OnlyExchange x e := he ▸ exchangeStep_only t 0 x
  let e' := noteReports x e
  have hn' : NoNewArrival e' p t := fun ht => by
    rw [((noteReports_only x e).ports.trans ho.ports).trans hports]; exact hn ht
  have hcomplete : complete p t wd 0 x = e'.setAccess p (t.ended wd t.err) := by
    unfold complete completionEffects
    rw [reportParity_zero, he, finishPort_of_noNewArrival wd 0 hn']
    simp only [bne_self_eq_false, Bool.false_and, Bool.or_false]
  have hee : e' = { e with mirror := e'.mirror } := noteReports_eq x e
  rw [hcomplete]
  refine ⟨_, rfl, ?_, ?_, ?_, fun is his => ?_⟩
  · rw [channels_noteReports, State.setAccess_channels, hee]
  · rw [groups_noteReports, State.setAccess_groups, hee]
  · have hw := noteReports_eq u (e'.setAccess p (t.ended wd t.err))
    generalize noteReports u (e'.setAccess p (t.ended wd t.err)) = w at hw ⊢
    rw [hw, hee, ho.eq]
    rfl
  · rw [changedReports_noteReports]
    exact ((his.trans (marks_noteReports x e)).trans (marks_setAccess e' p _)).trans
      (marks_noteReports u _) |>.congr fun i => by simp

/-- A pending set depends on these fields as vectors. -/
theorem pendingSet_of_fields {s t : State} (ha : t.attention = s.attention) (hp : t.partState = s.partState)
    (hc : t.channels = s.channels) (hj : t.journals = s.journals) (q : Port) : pendingSet t q = pendingSet s q :=
  pendingSet_congr (by rw [ha]) hp (channel?_congr hc) (by rw [hj]; exact ⟨rfl, rfl⟩)

theorem changedReports_congr {b b' s s' : State} (hb : ∀ q, pendingSet b q = pendingSet b' q)
    (hs : ∀ q, pendingSet s q = pendingSet s' q) : changedReports b s = changedReports b' s' := by
  simp only [changedReports, hb, hs]

/-- As `completion_frame`, with the reports marked once. -/
theorem completion_event {u x e : State} {p : Port} {t : Taken} (wd : Word) (he : exchangeStep t 0 x = e)
    (hports : x.ports = u.ports) (hpend : ∀ q, pendingSet x q = pendingSet u q) (hn : NoNewArrival u p t) :
    ∃ w, noteReports u (complete p t wd 0 x) = w ∧ w.channels = e.channels ∧ w.groups = e.groups ∧
      w = { x.setAccess p (t.ended wd t.err) with
        channels := e.channels
        groups := e.groups
        journals := e.journals
        attention := e.attention
        mirror := w.mirror } ∧
      ∀ is, Marks x e is → Marks x w (is ++ changedReports u w) := by
  obtain ⟨w, h1, hc, hg, hw, hm⟩ := completion_frame wd he hports hn
  have hpart : e.partState = x.partState := he ▸ (exchangeStep_only t 0 x).partState
  have hrep : changedReports x e = changedReports u w := by
    refine changedReports_congr hpend fun q => (pendingSet_of_fields ?_ ?_ hc ?_ q).symm
    · rw [hw]
    · rw [hw]; exact hpart.symm
    · rw [hw]
  exact ⟨w, h1, hc, hg, hw, fun is his => (hm is his).congr fun i => by rw [hrep]; simp⟩

/-- R10: the end of the cycle of a closing write, whose pass closes as `e`. -/
theorem exec_closingWrite {s u e : State} {p : Port} {t : Taken} {cy : MCycle} {a : ChannelAccess} {seq : Word}
    (hu : u = settle s) (hcy : u.cycle = some cy) (huse : cy.use = .port p) (hwr : cy.wr = true)
    (hacc : u.access p = .inCycle t) (hdwr : t.drive.wr = true) (hn : NoNewArrival u p t) (hout : t.outcome = .channel a)
    (hside : a.side = .producer) (hclosing : a.closing = true) (hseq : a.passSeq = some seq)
    (he : closePass a.ch seq (u.cycleEnded cy) = e) :
    ∃ w, exec .memoryCycleEnd s = .next (grant w) ∧ w.channels = e.channels ∧ w.groups = e.groups ∧
      w = { u.setAccess p (t.ended 0 t.err) with
        cycle := none
        mem := u.mem.write cy.addr cy.lanes cy.data
        channels := e.channels
        groups := e.groups
        journals := e.journals
        attention := e.attention
        mirror := w.mirror } ∧
      ∀ is, Marks (u.cycleEnded cy) e is → Marks u w (is ++ changedReports u w) := by
  have hstep : exchangeStep t 0 (u.cycleEnded cy) = e := by
    rw [exchangeStep_of_closingWrite hout hside hdwr hclosing hseq, he]
  obtain ⟨w, hw1, hc, hg, hw, hm⟩ := completion_event (u := u) (p := p) 0 hstep rfl (fun _ => rfl) hn
  refine ⟨w, ?_, hc, hg, ?_, hm⟩
  · rw [exec_memoryCycleEnd hu, memoryCycleEnd_of_port hcy huse hacc]
    simp only [cycleWord, cycleErrors, hwr, if_true, hw1]
  · have hmem : cycleMem u.mem cy = u.mem.write cy.addr cy.lanes cy.data := by simp [cycleMem, hwr]
    rw [← hmem]
    exact hw

/-! ### The statements -/

/-- Settles O27: the completion closes the SHED pass, and `faultPass` says what that does. -/
theorem aShedPassClosesWithFillFault : Obligations.AShedPassClosesWithFillFault := by
  intro s p t a c q u x j rs ha hn hdwr hout hside hsteer hclosing hseq hc hpass htarget
  have hu : u = settle s := rfl
  clear_value u
  have hstep : exchangeStep t 0 u =
      faultPass a.ch c q false (mkRecord .shed a.ch none 0 q.seq q.openTime u.clock) u := by
    rw [exchangeStep_of_closingWrite hout hside hdwr hclosing hseq, closePass_of_shed hc hpass htarget, closeShed_eq]
  obtain ⟨w, hw1, hwc, -, hw, hm⟩ := completion_event (u := u) (p := p) 0 hstep rfl (fun _ => rfl) hn
  obtain ⟨hj, hatt, hmarks⟩ := (tells_faultPass a.ch c q false (mkRecord .shed a.ch none 0 q.seq q.openTime u.clock) u).to_one
  have hphys : t.outcome.phys? = none := by simp [hout, Decoded.phys?, hsteer]
  have hch : ∀ m, w.channel? m = if m = a.ch then
      some { c with pass := none, halted := c.halted || c.desc.stopOnError } else u.channel? m := fun m => by
    rw [channel?_congr hwc m, channel?_faultPass hc]
  refine ⟨w, ?_, (hch _).trans (if_pos rfl), fun m hne => (hch m).trans (if_neg hne), ?_, hm _ hmarks⟩
  · rw [exec_cyclelessCompletion hu, completeCycleless_of_taken ha hphys, hw1]
  · rw [← hwc, groups_faultPass, hj, hatt] at hw
    exact hw

/-- Settles O31: the closing write publishes its buffer, as R19 and R20 say. -/
theorem aClosingWriteInAnImmediateGroupPublishes : Obligations.AClosingWriteInAnImmediateGroupPublishes := by
  intro s p t cy a c q b u x j rs hcy huse hwr hacc hdwr hn hout hside hclosing hseq hc hpass htarget hmode hpend
  have hu : u = settle s := rfl
  clear_value u
  have hx : (u.cycleEnded cy).channel? a.ch = some c := hc
  obtain ⟨w, hexec, hwc, -, hw, hm⟩ := exec_closingWrite hu hcy huse hwr hacc hdwr hn hout hside hclosing hseq
    (closePass_of_immediate hx hpass htarget hmode)
  obtain ⟨hj, hatt, hmarks⟩ := (tells_closeIntoLive (b := b) hx q).to_one
  have hch : ∀ m, w.channel? m = if m = a.ch then some { c with
      pass := none
      live := some b
      pubCount := c.pubCount + 1
      lastPub := u.clock
      cond := .fresh
      freshDl := formDeadline u.clock c.desc.freshLimit } else u.channel? m := fun m => by
    rw [channel?_congr hwc m, channel?_closeIntoLive hx]
    simp only [Channel.published, hpend]
    rfl
  refine ⟨w, hexec, (hch _).trans (if_pos rfl), fun m hne => (hch m).trans (if_neg hne), ?_, hm _ hmarks⟩
  have hgroups : (closeIntoLive a.ch b q (u.cycleEnded cy)).groups = u.groups := by
    rw [closeIntoLive, groups_publish]; rfl
  rw [← hwc, hgroups, hj, hatt] at hw
  exact hw

/-- Settles O32: the closing write makes its buffer pending, and a TIMED group does nothing at once (R35). -/
theorem aClosingWriteInATimedGroupPends : Obligations.AClosingWriteInATimedGroupPends := by
  intro s p t cy a c q b u x j rs hcy huse hwr hacc hdwr hn hout hside hclosing hseq hc hpass htarget hmode
  have hu : u = settle s := rfl
  clear_value u
  have hx : (u.cycleEnded cy).channel? a.ch = some c := hc
  have hxm : (u.cycleEnded cy).modeOfChannel c = some .timed := hmode
  have hgained : closeIntoPending a.ch b c q (u.cycleEnded cy) = pendBuffer a.ch b c q (u.cycleEnded cy) := by
    rw [closeIntoPending_eq, memberGained_of_timed]
    unfold State.modeOfChannel at hmode
    rw [group?_congr (groups_pendBuffer a.ch b c q (u.cycleEnded cy))]
    change (u.group? c.desc.group).bind (·.desc.mode) = _
    cases hg : u.group? c.desc.group with
    | none => simp [hg] at hmode
    | some gr => simpa [hg] using hmode
  obtain ⟨w, hexec, hwc, -, hw, hm⟩ := exec_closingWrite hu hcy huse hwr hacc hdwr hn hout hside hclosing hseq
    ((closePass_of_pending hx hpass htarget (by rw [hxm]; decide)).trans hgained)
  obtain ⟨hj, hatt, hmarks⟩ := ((tells_pendBuffer a.ch b c q (u.cycleEnded cy)).congr (fun _ => rfl)
    (fun y => show onlyTo c.desc.producer 0 0 y = 0 by simp [onlyTo]) (fun _ => Iff.rfl)).to_one
  have hch := fun m => (channel?_congr hwc m).trans (channel?_pendBuffer (b := b) hx q m)
  refine ⟨w, hexec, (hch _).trans (if_pos rfl), fun m hne => (hch m).trans (if_neg hne), ?_, hm _ hmarks⟩
  rw [← hwc, groups_pendBuffer, hj, hatt] at hw
  exact hw

/-- Settles O39: the deadline is due, and the pass ends as `faultPass` says. -/
theorem aFillExpiryAbortsThePass : Obligations.AFillExpiryAbortsThePass := by
  intro s n c q dl x j rs hc hpass hdl hreached
  have hdue : fillDue s n = true := by simp [fillDue, hc, hpass, isReached, hdl, Deadline.reached, hreached]
  let r := mkRecord .fillExpired n q.target.buffer? (flagBit 0 (q.target == .shed)) q.seq q.openTime s.clock
  have hstep : expirePass n s = faultPass n c q true r s := expirePass_eq hc hpass
  have hexec : exec (.fillExpiry n) s = .next (grant (noteReports s (expirePass n s))) := by
    change Host.Outcome.next (dueEvent (fillDue s n) (expirePass n) s) = _
    rw [hdue]
    rfl
  obtain ⟨hj, hatt, hmarks⟩ := (tells_faultPass n c q true r s).to_one
  have hch := fun m => (channel?_congr (channels_noteReports s _) m).trans (channel?_faultPass hc q true r m)
  have hw := noteReports_eq s (faultPass n c q true r s)
  have ho := (faultPass_only n c q true r s).eq
  rw [hstep] at hexec
  refine ⟨_, hexec, (hch n).trans (if_pos rfl), fun m hne => (hch m).trans (if_neg hne), ?_, ?_⟩
  · rw [groups_faultPass, hj, hatt] at ho
    rw [channels_noteReports]
    exact hw.trans (congrArg (fun z : State => { z with mirror := (noteReports s (faultPass n c q true r s)).mirror }) ho)
  · rw [changedReports_noteReports]
    exact hmarks.trans (marks_noteReports s _)

end Sys2Proof.Machine

/-! SUPPORT. Chains, the publication of a chain's members and gathers (R31, R35, R37, R39, R40), and the closing writes in a
GATHERED group. -/
namespace Sys2Proof.Machine

/-! ### Chains (R31) -/

theorem State.nextOf_eq (s : State) : s.nextOf = fun n => (s.descOf n).map (·.nextMember) := by
  funext n
  unfold State.nextOf State.descOf
  rw [Option.map_map]
  rfl

/-- A chain is read off the descriptors alone. -/
theorem State.members_congr {s t : State} {g : Nat} (hd : t.descOf = s.descOf)
    (hg : (t.group? g).map (·.desc) = (s.group? g).map (·.desc)) : t.members g = s.members g := by
  unfold State.members
  rw [State.nextOf_eq, State.nextOf_eq, hd]
  cases ht : t.group? g <;> cases hs : s.group? g <;> simp_all

/-! ### The publication of pending members (R37, R40, R41) -/

theorem Channel.pendPublished_eq (c : Channel) (now : Word) : c.pendPublished now =
    match c.pend with
    | some q => c.published q.buf now
    | none => c := by
  unfold Channel.pendPublished Channel.published
  cases hp : c.pend with
  | none => rfl
  | some q => simp

theorem channel?_publishPending (s : State) (n m : Nat) : (publishPending s n).channel? m =
    if m = n then (s.channel? n).map fun c => c.pendPublished s.clock else s.channel? m := by
  unfold publishPending
  cases hc : s.channel? n with
  | none => by_cases h : m = n <;> simp_all
  | some c =>
    simp only [Option.bind_some, Option.map_some, Channel.pendPublished_eq]
    cases hp : c.pend with
    | none => by_cases h : m = n <;> simp_all
    | some q => rw [channel?_publish, hc]; rfl

@[simp] theorem groups_publishPending (s : State) (n : Nat) : (publishPending s n).groups = s.groups := by
  unfold publishPending
  split
  · exact groups_publish _ _ _ _ _
  · rfl

theorem Channel.desc_pendPublished (c : Channel) (now : Word) : (c.pendPublished now).desc = c.desc := by
  rw [Channel.pendPublished_eq]
  split <;> rfl

theorem descOf_publishPending (s : State) (n : Nat) : (publishPending s n).descOf = s.descOf := by
  funext m
  unfold State.descOf
  rw [channel?_publishPending]
  split
  · rename_i h
    subst h
    rw [Option.map_map]
    congr 1
    funext c
    exact c.desc_pendPublished s.clock
  · rfl

/-- R20: the PUBLISHED record for port `x` of member `m`'s pending buffer, where one is due. -/
def memberRecord (s : State) (x : Port) (m : Nat) : Option Record :=
  match s.channel? m with
  | some c =>
    match c.pend with
    | some q =>
      if c.desc.notify && c.desc.consumer == x then some (mkRecord .published m (some q.buf) 0 q.seq q.closeTime s.clock)
      else none
    | none => none
  | none => none

theorem groupRecords_eq (s : State) (g : Nat) (x : Port) : groupRecords s g x = (s.members g).filterMap (memberRecord s x) :=
  rfl

/-- A member's record and whether it has a pending buffer are read off its own channel and the clock. -/
theorem memberRecord_congr {s t : State} {m : Nat} (hc : t.channel? m = s.channel? m) (hk : t.clock = s.clock)
    (x : Port) : memberRecord t x m = memberRecord s x m := by
  unfold memberRecord
  rw [hc, hk]

theorem hasPending_congr {s t : State} {m : Nat} (hc : t.channel? m = s.channel? m) : t.hasPending m = s.hasPending m := by
  unfold State.hasPending
  rw [hc]

theorem tells_publishPending (s : State) (n : Nat) : Tells s (publishPending s n)
    (fun x => (memberRecord s x n).toList) (fun x => causeIf .publish (memberRecord s x n).isSome)
    (if s.hasPending n then [.chanBlock n] else []) := by
  have hskip : ∀ c, s.channel? n = some c → c.pend = none → publishPending s n = s ∧
      s.hasPending n = false ∧ ∀ x, memberRecord s x n = none := by
    intro c hc hp
    simp [publishPending, State.hasPending, memberRecord, hc, hp]
  cases hc : s.channel? n with
  | none =>
    have h : publishPending s n = s := by simp [publishPending, hc]
    rw [h]
    exact (tells_refl s).congr (fun x => by simp [memberRecord, hc]) (fun x => by simp [memberRecord, hc, causeIf])
      (fun i => by simp [State.hasPending, hc])
  | some c =>
    cases hp : c.pend with
    | none =>
      obtain ⟨h1, h2, h3⟩ := hskip c hc hp
      rw [h1]
      exact (tells_refl s).congr (fun x => by simp [h3]) (fun x => by simp [h3, causeIf]) (fun i => by simp [h2])
    | some q =>
      have h : publishPending s n = publish n q.buf q.seq q.closeTime s := by simp [publishPending, hc, hp]
      have hrec : ∀ x, memberRecord s x n = if c.desc.notify && c.desc.consumer == x then
          some (publishedRecord n q.buf q.seq q.closeTime s.clock) else none := fun x => by
        simp only [memberRecord, hc, hp, publishedRecord]
      rw [h]
      refine (tells_publish hc q.buf q.seq q.closeTime).congr (fun x => ?_) (fun x => ?_)
        (fun i => by simp [State.hasPending, hc, hp])
      · rw [hrec, BEq.comm]
        cases c.desc.notify <;> by_cases hx : x = c.desc.consumer <;> simp [onlyTo, hx]
      · rw [hrec, BEq.comm]
        cases c.desc.notify <;> by_cases hx : x = c.desc.consumer <;> simp [onlyTo, hx, causeIf]

/-- The publication of a list of members, none twice: each as it stood at the beginning. -/
theorem publishPending_fold (ms : List Nat) (hms : ms.Nodup) (s : State) :
    (∀ m, (ms.foldl publishPending s).channel? m =
      if m ∈ ms then (s.channel? m).map fun c => c.pendPublished s.clock else s.channel? m) ∧
    Tells s (ms.foldl publishPending s) (fun x => ms.filterMap (memberRecord s x))
      (fun x => causeIf .publish (!(ms.filterMap (memberRecord s x)).isEmpty)) ((ms.filter s.hasPending).map .chanBlock) := by
  induction ms generalizing s with
  | nil => exact ⟨fun m => by simp, (tells_refl s).congr (fun _ => rfl) (fun _ => by simp [causeIf]) (fun _ => Iff.rfl)⟩
  | cons n rest ih =>
    obtain ⟨hn, hrest⟩ := List.nodup_cons.1 hms
    obtain ⟨hch, htell⟩ := ih hrest (publishPending s n)
    have hclock : (publishPending s n).clock = s.clock := (publishPending_only s n).clock
    have hother : ∀ m ∈ rest, (publishPending s n).channel? m = s.channel? m := fun m hm => by
      rw [channel?_publishPending, if_neg fun e : m = n => hn (e ▸ hm)]
    have hrecs : ∀ x, rest.filterMap (memberRecord (publishPending s n) x) = rest.filterMap (memberRecord s x) := fun x =>
      List.filterMap_congr fun m hm => memberRecord_congr (hother m hm) hclock x
    have hpend : rest.filter (publishPending s n).hasPending = rest.filter s.hasPending :=
      List.filter_congr fun m hm => hasPending_congr (hother m hm)
    rw [List.foldl_cons]
    refine ⟨fun m => ?_, ((tells_publishPending s n).trans htell).congr (fun x => ?_) (fun x => ?_) (fun i => ?_)⟩
    · rw [hch, hclock, channel?_publishPending]
      by_cases hm : m = n
      · subst hm; simp [hn]
      · simp [hm]
    · rw [hrecs, List.filterMap_cons]
      cases memberRecord s x n <;> rfl
    · rw [hrecs, List.filterMap_cons]
      cases memberRecord s x n <;> cases rest.filterMap (memberRecord s x) <;> simp [causeIf]
    · rw [hpend]
      cases hp : s.hasPending n <;> simp [hp]

/-! ### Gathers (R39, R40) -/

/-- R39: the record of a group in which a gather runs, one begun at `now` where none ran. -/
def Group.gathering (gr : Group) (now : Word) : Group :=
  { gr with
    gather := match gr.gather with
      | some r => some r
      | none => some { start := now, deadline := formDeadline now gr.desc.window } }

theorem group?_startGather {s : State} {g : Nat} {gr : Group} (hg : s.group? g = some gr) (h : Nat) :
    (startGather g s).group? h = if h = g then some (gr.gathering s.clock) else s.group? h := by
  unfold startGather Group.gathering
  simp only [hg]
  cases hga : gr.gather with
  | none => by_cases hh : h = g <;> simp [hh, hg]
  | some r =>
    have hgr : { gr with gather := some r } = gr := by rw [← hga]
    simp only [Option.isNone_some, Bool.false_eq_true, if_false, hgr]
    by_cases hh : h = g <;> simp [hh, hg]

theorem tells_startGather {s : State} {g : Nat} {gr : Group} (hg : s.group? g = some gr) :
    Tells s (startGather g s) (fun _ => []) (fun _ => 0) (if gr.gather.isNone then [.groupBlock g] else []) := by
  unfold startGather
  simp only [hg]
  split
  · exact ((tells_modGroup s g _).trans (tells_mark _ (.groupBlock g))).congr (fun _ => rfl) (fun _ => by simp) fun i => by simp
  · exact tells_refl s

theorem memberGained_of_gathered {s : State} {g : Nat} {gr : Group} (hg : s.group? g = some gr)
    (hm : gr.desc.mode = some .gathered) : memberGained g s = completeGather g (startGather g s) := by
  unfold memberGained
  simp [hg, hm]

/-- What the closing write of a pass with target `b` leaves before a gather is completed: the buffer is pending and a gather
runs. -/
theorem gather_after_pendBuffer {s : State} {n b : Nat} {c : Channel} {q : FillPass} {gr : Group}
    (hc : s.channel? n = some c) (hg : s.group? c.desc.group = some gr) :
    let v := startGather c.desc.group (pendBuffer n b c q s)
    (∀ m, v.channel? m = if m = n then
      some { c with pass := none, pend := some { buf := b, seq := q.seq, openTime := q.openTime, closeTime := s.clock } }
      else s.channel? m) ∧
    (∀ h, v.group? h = if h = c.desc.group then some (gr.gathering s.clock) else s.group? h) ∧
    v.clock = s.clock ∧ v.members c.desc.group = s.members c.desc.group ∧
    Tells s v (onlyTo c.desc.producer [] (supersededRecords n c s.clock)) (fun _ => 0)
      (.chanBlock n :: if gr.gather.isNone then [.groupBlock c.desc.group] else []) := by
  intro v
  have hclock : (pendBuffer n b c q s).clock = s.clock := (pendBuffer_only n b c q s).clock
  have hgr : (pendBuffer n b c q s).group? c.desc.group = some gr := by
    rw [group?_congr (groups_pendBuffer n b c q s)]; exact hg
  have hch : ∀ m, v.channel? m = if m = n then
      some { c with pass := none, pend := some { buf := b, seq := q.seq, openTime := q.openTime, closeTime := s.clock } }
      else s.channel? m := fun m => by
    rw [channel?_congr (channels_startGather _ _), channel?_pendBuffer hc]
  have hgroup : ∀ h, v.group? h = if h = c.desc.group then some (gr.gathering s.clock) else s.group? h := fun h => by
    rw [group?_startGather hgr, hclock, group?_congr (groups_pendBuffer n b c q s)]
  refine ⟨hch, hgroup, (startGather_only _ _).clock.trans hclock, State.members_congr (funext fun m => ?_) ?_, ?_⟩
  · unfold State.descOf
    rw [hch]
    split
    · rename_i h; subst h; rw [hc]; rfl
    · rfl
  · rw [hgroup, if_pos rfl, hg]; rfl
  · exact ((tells_pendBuffer n b c q s).trans (tells_startGather hgr)).congr (fun x => by simp) (fun x => by simp)
      (fun i => by simp)

/-- R40: a gather completes exactly where every member has a pending buffer. -/
theorem completeGather_of_all {s : State} {g : Nat} (h : ∀ m ∈ s.members g, s.hasPending m = true) :
    completeGather g s = endGather g (publishMembers g s) := by
  unfold completeGather
  rw [if_pos (List.all_eq_true.2 h)]

theorem completeGather_of_missing {s : State} {g m : Nat} (hm : m ∈ s.members g) (h : s.hasPending m = false) :
    completeGather g s = s := by
  unfold completeGather
  rw [if_neg fun hall => by rw [List.all_eq_true.1 hall m hm] at h; cases h]

/-- Settles O33: the closing write makes its buffer pending and starts the gather; another member has none, so it runs on. -/
theorem aClosingWriteInAGatheredGroupGathers : Obligations.AClosingWriteInAGatheredGroupGathers := by
  intro s p t cy a c q b gr u g x j rs hcy huse hwr hacc hdwr hn hout hside hclosing hseq hc hpass htarget hgr hmode hmiss
  have hu : u = settle s := rfl
  clear_value u
  let y := u.cycleEnded cy
  have hy : y.channel? a.ch = some c := hc
  have hyg : y.group? c.desc.group = some gr := hgr
  have hym : y.modeOfChannel c ≠ some .immediate := by simp [State.modeOfChannel, hyg, hmode]
  obtain ⟨hch, hgroup, hclock, hmem, htell⟩ := gather_after_pendBuffer (b := b) (q := q) hy hyg
  have hgained : closePass a.ch q.seq y = startGather c.desc.group (pendBuffer a.ch b c q y) := by
    obtain ⟨m, hm, hne, hno⟩ := hmiss
    rw [closePass_of_pending hy hpass htarget hym, closeIntoPending_eq,
      memberGained_of_gathered (gr := gr) (by rw [group?_congr (groups_pendBuffer a.ch b c q y)]; exact hyg) hmode]
    refine completeGather_of_missing (m := m) (by rw [hmem]; exact hm) ?_
    rw [hasPending_congr ((hch m).trans (if_neg hne))]
    exact hno
  obtain ⟨w, hexec, hwc, hwg, hw, hm⟩ := exec_closingWrite hu hcy huse hwr hacc hdwr hn hout hside hclosing hseq hgained
  obtain ⟨hj, hatt, hmarks⟩ := (htell.congr (fun _ => rfl)
    (fun z => show onlyTo c.desc.producer 0 0 z = 0 by simp [onlyTo]) (fun _ => Iff.rfl)).to_one
  have hwch := fun m => (channel?_congr hwc m).trans (hch m)
  have hwgr := fun h => (group?_congr hwg h).trans (hgroup h)
  refine ⟨w, hexec, (hwch _).trans (if_pos rfl), fun m hne => (hwch m).trans (if_neg hne), (hwgr _).trans (if_pos rfl),
    fun h hne => (hwgr h).trans (if_neg hne), ?_, hm _ hmarks⟩
  rw [← hwc, ← hwg, hj, hatt] at hw
  exact hw

end Sys2Proof.Machine

/-! SUPPORT. The closing write that completes a gather (R40): every member is published, the superseded buffer's record goes to
the producer, the PUBLISHED records go to the consumer. -/
namespace Sys2Proof.Machine

theorem Port.other_ne (p : Port) : p.other ≠ p := by cases p <;> decide

theorem Port.eq_or_eq_other (p x : Port) : p = x ∨ p = x.other := by cases p <;> cases x <;> decide

/-- What an event has told port `x` and what it has told the other. -/
theorem Tells.to_both {s t : State} {x : Port} {rs qs : List Record} {c d : BitVec 12} {is : List MirrorItem}
    (h : Tells s t (onlyTo x qs rs) (onlyTo x d c) is) :
    t.journals.get x = offers s.clock (s.journals.get x) rs ∧
    t.journals.get x.other = offers s.clock (s.journals.get x.other) qs ∧
    t.attention.get x = (s.attention.get x).told c s.clock (s.journals.get x) rs ∧
    t.attention.get x.other = (s.attention.get x.other).told d s.clock (s.journals.get x.other) qs ∧
    Marks s t (is ++ offersMark s.clock x (s.journals.get x) rs ++
      offersMark s.clock x.other (s.journals.get x.other) qs) := by
  have hx : ∀ {α : Type} (a b : α), onlyTo x a b x = b := fun a b => if_pos rfl
  have ho : ∀ {α : Type} (a b : α), onlyTo x a b x.other = a := fun a b => if_neg (Port.other_ne x)
  refine ⟨?_, ?_, ?_, ?_, h.marks.congr fun i => ?_⟩
  · rw [h.journal, hx]
  · rw [h.journal, ho]
  · rw [h.attention, hx, hx]
  · rw [h.attention, ho, ho]
  · cases x
    · simp [onlyTo, Port.other]
    · simp only [onlyTo, Port.other, List.mem_append, reduceCtorEq, if_true, if_false]
      tauto

/-- R40: what the end of a gather with a full publication does from `s`, with the members `ms` of its group, none twice. -/
theorem endGather_publishMembers {s : State} {g : Nat} {gr : Group} (hg : s.group? g = some gr)
    (hms : (s.members g).Nodup) :
    let e := endGather g (publishMembers g s)
    (∀ m, e.channel? m =
      if m ∈ s.members g then (s.channel? m).map fun c => c.pendPublished s.clock else s.channel? m) ∧
    (∀ h, e.group? h = if h = g then some { gr with gather := none } else s.group? h) ∧
    Tells s e (groupRecords s g) (fun x => causeIf .publish (!(groupRecords s g x).isEmpty))
      (.groupBlock g :: (pendingMembers s g).map .chanBlock) := by
  intro e
  obtain ⟨hch, htell⟩ := publishPending_fold (s.members g) hms s
  have hgroups : (publishMembers g s).groups = s.groups := foldl_field State.groups _ groups_publishPending _ s
  refine ⟨hch, fun h => ?_, ?_⟩
  · have he : e.group? h = ((publishMembers g s).modGroup g fun gr => { gr with gather := none }).group? h := rfl
    rw [he, State.group?_modGroup, group?_congr hgroups, group?_congr hgroups, hg]
    rfl
  · exact ((htell.trans (tells_modGroup _ g _)).trans (tells_mark _ (.groupBlock g))).congr (fun x => by simp [groupRecords_eq])
      (fun x => by simp [groupRecords_eq]) (fun i => by simp [pendingMembers, or_comm])

/-- R20, R30: a member whose consumer is the other port has no record for port `x`. -/
theorem memberRecord_eq_none {s : State} {x : Port} {m : Nat}
    (h : ∀ c, s.channel? m = some c → c.desc.consumer ≠ x) : memberRecord s x m = none := by
  unfold memberRecord
  cases hc : s.channel? m with
  | none => rfl
  | some c =>
    cases hp : c.pend <;> simp [hp, h c hc]

/-- Settles O34: the write makes the last pending buffer, so the gather is complete and every member is published; the chain
law gives each member the producer of the group. -/
theorem aCompleteGatherPublishesEveryMember : Obligations.ACompleteGatherPublishesEveryMember := by
  intro s p t cy a c q b gr u g x closed v superseded hchain hcy huse hwr hacc hdwr hn hout hside hclosing hseq hc hpass
    htarget hgr hmode hall
  have hu : u = settle s := rfl
  clear_value u
  let y := u.cycleEnded cy
  have hy : y.channel? a.ch = some c := hc
  have hyg : y.group? c.desc.group = some gr := hgr
  have hym : y.modeOfChannel c ≠ some .immediate := by simp [State.modeOfChannel, hyg, hmode]
  obtain ⟨hgch, hgg, hgclock, hgmem, hgtell⟩ := gather_after_pendBuffer (b := b) (q := q) hy hyg
  generalize hz : startGather c.desc.group (pendBuffer a.ch b c q y) = z at hgch hgg hgclock hgmem hgtell
  -- the chain of the group
  obtain ⟨hgroups, hmembers, -⟩ := hchain
  obtain ⟨-, -, hnodup, hprod⟩ := hgroups g gr hgr
  have hin : a.ch ∈ u.members g := hmembers a.ch c hc
  have hzmem : z.members g = u.members g := hgmem
  have hvch : ∀ m, v.channel? m = z.channel? m := fun m => by
    rw [hgch]
    refine (State.channel?_modChannel u a.ch m _).trans ?_
    rw [hc]
    rfl
  have hvmem : v.members g = u.members g :=
    State.members_congr (funext fun m => by
      unfold State.descOf
      rw [hvch, hgch]
      split
      · rename_i h; subst h; rw [hc]; rfl
      · rfl) rfl
  have hrecs : ∀ o, groupRecords z g o = groupRecords v g o := fun o => by
    rw [groupRecords_eq, groupRecords_eq, hzmem, hvmem]
    exact List.filterMap_congr fun m _ => memberRecord_congr (hvch m).symm hgclock o
  have hx : groupRecords z g x = [] := by
    rw [groupRecords_eq, hzmem]
    refine List.filterMap_eq_nil_iff.2 fun m hm => memberRecord_eq_none fun k hk => ?_
    have hcons : ∀ d, u.channel? m = some d → d.desc.consumer ≠ x := fun d hd => by
      obtain ⟨d', hd', -, hpd⟩ := hprod m hm
      obtain ⟨c', hc', -, hpc⟩ := hprod a.ch hin
      cases hd.symm.trans hd'
      cases hc.symm.trans hc'
      rw [ChanDesc.consumer, hpd, ← hpc]
      exact Port.other_ne _
    rw [hgch] at hk
    split at hk
    · rename_i h
      subst h
      cases hk
      exact hcons c hc
    · exact hcons k hk
  -- the gather is complete
  have hpending : ∀ m ∈ z.members g, z.hasPending m = true := fun m hm => by
    rcases hall m (hzmem ▸ hm) with rfl | h
    · simp [State.hasPending, hgch]
    · by_cases hm' : m = a.ch
      · subst hm'; simp [State.hasPending, hgch]
      · rw [hasPending_congr ((hgch m).trans (if_neg hm'))]; exact h
  have hclosed : closePass a.ch q.seq y = endGather g (publishMembers g z) := by
    rw [closePass_of_pending hy hpass htarget hym, closeIntoPending_eq,
      memberGained_of_gathered (gr := gr) (by rw [group?_congr (groups_pendBuffer a.ch b c q y)]; exact hyg) hmode, hz]
    exact completeGather_of_all hpending
  obtain ⟨hech, heg, hetell⟩ := endGather_publishMembers (s := z) (g := g) ((hgg g).trans (if_pos rfl))
    (by rw [hzmem]; exact hnodup)
  -- what is told to the two ports
  have htell : Tells y (endGather g (publishMembers g z)) (onlyTo x (groupRecords v g x.other) superseded)
      (onlyTo x (causeIf .publish (!(groupRecords v g x.other).isEmpty)) 0)
      (.chanBlock a.ch :: .groupBlock g :: (u.members g).map .chanBlock) := by
    refine (hgtell.trans hetell).congr (fun o => ?_) (fun o => ?_) (fun i => ?_)
    · rcases Port.eq_or_eq_other o x with rfl | rfl
      · rw [hx, List.append_nil]
        exact (if_pos rfl).trans (if_pos rfl).symm
      · rw [hrecs]; simp [onlyTo, x, Port.other_ne]
    · rcases Port.eq_or_eq_other o x with rfl | rfl
      · rw [hx]; simp [onlyTo, causeIf]
      · rw [hrecs]; simp [onlyTo, x, Port.other_ne]
    · rw [pendingMembers, List.filter_eq_self.2 hpending, hzmem]
      cases gr.gather <;> simp [g]
  obtain ⟨w, hexec, hwc, hwg, hw, hm⟩ := exec_closingWrite hu hcy huse hwr hacc hdwr hn hout hside hclosing hseq hclosed
  have hwj : w.journals = (endGather g (publishMembers g z)).journals := by rw [hw]
  have hwa : w.attention = (endGather g (publishMembers g z)).attention := by rw [hw]
  obtain ⟨hjx, hjo, hax, hao, hmarks⟩ := htell.to_both
  refine ⟨w, hexec, fun m => ?_, ?_, fun h hne => ?_, ?_, ?_, ?_, ?_, ?_, ?_⟩
  · rw [channel?_congr hwc, hech, hzmem, hvch, hgclock]
    split
    · rfl
    · rename_i hm'
      rw [hgch, if_neg fun e : m = a.ch => hm' (e ▸ hin)]
      rfl
  · rw [group?_congr hwg, heg, if_pos rfl]; rfl
  · rw [group?_congr hwg, heg, if_neg hne, hgg, if_neg hne]; rfl
  · rw [hwj]; exact hjx
  · rw [hwj]; exact hjo
  · rw [hwa]; exact hax
  · rw [hwa]; exact hao
  · rw [hwc, hwg, hwj, hwa]
    exact hw
  · exact hm _ hmarks

end Sys2Proof.Machine

/-! SUPPORT. The install (R123 to R129) place by place: what the endings do to a channel and to a group, and which status
blocks wait to be written afterwards. -/
namespace Sys2Proof.Machine

/-! ### What the steps of an install leave to the groups -/

theorem groups_offerBoth (s : State) (r : Record) : (s.offerBoth r).groups = s.groups := by
  simp only [State.offerBoth, State.offer_groups]

theorem groups_reportLoadEnd (l : Load) (c : ResultCode) (d : Detail) (s : State) :
    (reportLoadEnd l c d s).groups = s.groups := by
  simp [reportLoadEnd, State.raiseBoth, State.offerBoth]

theorem groups_continueLoader (s : State) : (continueLoader s).groups = s.groups := by
  unfold continueLoader
  split <;> rfl

theorem groups_endChannel (l : Load) (s0 s : State) (n : Nat) : (endChannel l s0 s n).groups = s.groups := by
  unfold endChannel
  split
  · rfl
  · split
    · rfl
    · dsimp only
      split <;> split <;> simp only [State.offer_groups]

theorem groups_settleChanBlock (l : Load) (s0 s : State) (n : Nat) : (settleChanBlock l s0 s n).groups = s.groups := by
  unfold settleChanBlock
  dsimp only
  split <;> split <;> rfl

theorem groups_settleGroupBlock (l : Load) (s0 s : State) (g : Nat) : (settleGroupBlock l s0 s g).groups = s.groups := by
  unfold settleGroupBlock
  dsimp only
  split <;> split <;> rfl

theorem groups_offerResumed (l : Load) (s0 s : State) (n : Nat) : (offerResumed l s0 s n).groups = s.groups := by
  unfold offerResumed
  split
  · split
    · exact groups_offerBoth _ _
    · rfl
  · rfl

theorem groups_dropMemberPending (l : Load) (s0 s : State) (n : Nat) :
    (dropMemberPending l s0 s n).groups = s.groups := by
  unfold dropMemberPending
  split
  · rfl
  · split
    · split
      · simp only [State.offer_groups, State.modChannel_groups]
      · rfl
    · rfl

theorem groups_unpinMember (s : State) (n : Nat) : (unpinMember s n).groups = s.groups := by
  unfold unpinMember
  split
  · split <;> rfl
  · rfl

/-! ### The end of a pin (R48, R50, R128) -/

theorem channel?_unpinMember (s : State) (n m : Nat) : (unpinMember s n).channel? m =
    if m = n then (s.channel? n).map fun c => { c with held := none } else s.channel? m := by
  unfold unpinMember
  cases hc : s.channel? n with
  | none => by_cases h : m = n <;> simp [h, hc]
  | some c =>
    cases hh : c.held with
    | none =>
      have hk : { c with held := none } = c := by rw [← hh]
      by_cases h : m = n <;> simp [h, hc, hh, hk]
    | some b => by_cases h : m = n <;> simp [h, hc, hh]

theorem channel?_unpin_fold (ms : List Nat) (s : State) (m : Nat) : (ms.foldl unpinMember s).channel? m =
    if m ∈ ms then (s.channel? m).map fun c => { c with held := none } else s.channel? m := by
  induction ms generalizing s with
  | nil => simp
  | cons n rest ih =>
    rw [List.foldl_cons, ih, channel?_unpinMember]
    by_cases hn : m = n
    · subst hn; by_cases hr : m ∈ rest <;> simp [hr, Function.comp_def]
    · simp [hn]

theorem channel?_dropPin (g : Nat) (s : State) (m : Nat) : (dropPin g s).channel? m =
    if m ∈ s.members g then (s.channel? m).map fun c => { c with held := none } else s.channel? m :=
  channel?_unpin_fold (s.members g) (s.modGroup g fun gr => { gr with pin := none }) m

theorem group?_dropPin (g : Nat) (s : State) (h : Nat) : (dropPin g s).group? h =
    if h = g then (s.group? g).map fun gr => { gr with pin := none } else s.group? h := by
  rw [← State.group?_modGroup]
  exact group?_congr (foldl_field State.groups _ groups_unpinMember (s.members g) _) h

/-- R128: a pin that is released takes the held buffers of its group's members. -/
theorem channel?_releasePin (g : Nat) (i : Bool) (s : State) (m : Nat) : (releasePin g i s).channel? m =
    if ((s.group? g).bind (·.pin)).isSome = true ∧ m ∈ s.members g then
      (s.channel? m).map fun c => { c with held := none }
    else s.channel? m := by
  unfold releasePin
  cases (s.group? g).bind (·.pin) with
  | none => simp
  | some p =>
    simp only [State.raise_channel_at, State.offer_channel_at, channel?_dropPin, Option.isSome_some, true_and]

theorem group?_releasePin_of_ne {g h : Nat} (hne : h ≠ g) (i : Bool) (s : State) :
    (releasePin g i s).group? h = s.group? h := by
  unfold releasePin
  split
  · rfl
  · simp only [State.raise_group_at, State.offer_group_at, group?_dropPin, hne, if_false]

theorem groupDesc_releasePin (g : Nat) (i : Bool) (s : State) (h : Nat) :
    ((releasePin g i s).group? h).map (·.desc) = (s.group? h).map (·.desc) := by
  unfold releasePin
  split
  · rfl
  · simp only [State.raise_group_at, State.offer_group_at, group?_dropPin]
    split
    · rename_i hh; subst hh; rw [Option.map_map]; rfl
    · rfl

/-! ### The end of a group (R128) -/

/-- R128 step 3: the carried members of the list lose their pending buffers. -/
theorem channel?_dropMemberPending (l : Load) (s0 s : State) (n m : Nat) : (dropMemberPending l s0 s n).channel? m =
    if m = n ∧ carriesChannel s0 l n = true ∧ s0.hasPending n = true then
      (s.channel? n).map fun c => { c with pend := none }
    else s.channel? m := by
  unfold dropMemberPending State.hasPending
  cases hc : s0.channel? n with
  | none => simp
  | some c =>
    cases hk : carriesChannel s0 l n
    · simp
    · cases hp : c.pend with
      | none => simp [hp]
      | some q => by_cases h : m = n <;> simp [h, hp]

theorem channel?_dropMemberPending_fold (l : Load) (s0 : State) (ms : List Nat) (s : State) (m : Nat) :
    (ms.foldl (dropMemberPending l s0) s).channel? m =
      if m ∈ ms ∧ carriesChannel s0 l m = true ∧ s0.hasPending m = true then
        (s.channel? m).map fun c => { c with pend := none }
      else s.channel? m := by
  induction ms generalizing s with
  | nil => simp
  | cons n rest ih =>
    rw [List.foldl_cons, ih, channel?_dropMemberPending]
    by_cases hn : m = n
    · subst hn
      by_cases hr : m ∈ rest <;> by_cases hk : carriesChannel s0 l m = true ∧ s0.hasPending m = true <;>
        simp [hr, hk, Function.comp_def]
    · simp [hn]

theorem group?_endGroup_of_ne {g h : Nat} (hne : h ≠ g) (l : Load) (s0 s : State) :
    (endGroup l s0 s g).group? h = s.group? h := by
  unfold endGroup
  split
  · rfl
  · split
    · rfl
    · rw [group?_congr (foldl_field State.groups _ (groups_dropMemberPending l s0) _ _), group?_releasePin_of_ne hne]

theorem endGroup_of_carried {s0 : State} {l : Load} {g : Nat} (h : carriesGroup s0 l g = true) (s : State) :
    endGroup l s0 s g = s := by
  unfold endGroup
  split <;> simp [h]

theorem groupDesc_endGroup (l : Load) (s0 s : State) (g h : Nat) :
    ((endGroup l s0 s g).group? h).map (·.desc) = (s.group? h).map (·.desc) := by
  unfold endGroup
  split
  · rfl
  · split
    · rfl
    · rw [group?_congr (foldl_field State.groups _ (groups_dropMemberPending l s0) _ _), groupDesc_releasePin]

/-- The end of a group does nothing to a channel that is not on its chain. -/
theorem channel?_endGroup_of_not_mem {l : Load} {s0 s : State} {g m : Nat} (h0 : m ∉ s0.members g)
    (h : m ∉ s.members g) : (endGroup l s0 s g).channel? m = s.channel? m := by
  unfold endGroup
  split
  · rfl
  · split
    · rfl
    · rw [channel?_dropMemberPending_fold, if_neg fun e => h0 e.1, channel?_releasePin, if_neg fun e => h e.2]

/-- R128: a carried member of a group that ends loses its pending buffer, and its held buffer where the pin stands. -/
theorem channel?_endGroup_of_mem {l : Load} {s0 s : State} {g n : Nat} {gr : Group} {c : Channel}
    (hg0 : s0.group? g = some gr) (hg : s.group? g = some gr) (hends : carriesGroup s0 l g = false)
    (hm0 : n ∈ s0.members g) (hm : n ∈ s.members g) (hc0 : s0.channel? n = some c) (hc : s.channel? n = some c)
    (hcar : carriesChannel s0 l n = true) : (endGroup l s0 s g).channel? n =
      some { c with pend := none, held := if gr.pin.isSome then none else c.held } := by
  have hp : s0.hasPending n = c.pend.isSome := by simp [State.hasPending, hc0]
  unfold endGroup
  simp only [hg0, hends, Bool.false_eq_true, if_false]
  rw [channel?_dropMemberPending_fold, channel?_releasePin, hg, hc, hp]
  simp only [Option.bind_some, hm, and_true, hm0, hcar, true_and]
  cases hpend : c.pend with
  | none =>
    have hk : { c with pend := none } = c := by rw [← hpend]
    cases gr.pin
    · simp [hk]
    · simp [hpend]
  | some q => cases gr.pin <;> simp

end Sys2Proof.Machine

/-! SUPPORT. What the endings of an install leave at each place (R126, R128), and the blocks that wait after it. -/
namespace Sys2Proof.Machine

/-! ### The loop over the places -/

/-- The loop over the 24 places, cut at place `n`: `I` holds until its turn, `J` from then on. -/
theorem indices_foldl_at {n : Nat} (hn : n < 24) (I J : State → Prop) (f : State → Nat → State) {s : State} (hs : I s)
    (before : ∀ u b, b ≠ n → I u → I (f u b)) (turn : ∀ u, I u → J (f u n))
    (after : ∀ u b, b ≠ n → J u → J (f u b)) : J (indices.foldl f s) := by
  obtain ⟨as, bs, h⟩ : ∃ as bs, indices = as ++ n :: bs := List.append_of_mem (List.mem_range.2 hn)
  have hnd : (as ++ n :: bs).Nodup := h ▸ List.nodup_range
  have has : ∀ b ∈ as, b ≠ n := fun b hb e => List.disjoint_of_nodup_append hnd hb (e ▸ List.mem_cons_self)
  have hbs : ∀ b ∈ bs, b ≠ n := fun b hb e => (List.nodup_cons.1 hnd.of_append_right).1 (e ▸ hb)
  rw [h, List.foldl_append, List.foldl_cons]
  exact List.foldlRecOn bs f (turn _ (List.foldlRecOn as f hs fun u hu b hb => before u b (has b hb) hu))
    fun u hu b hb => after u b (hbs b hb) hu

/-! ### Chains through the endings -/

/-- Two states whose places hold the same descriptors, so the same chains. -/
structure SameChains (s t : State) : Prop where
  channels : t.descOf = s.descOf
  groups : ∀ g, (t.group? g).map (·.desc) = (s.group? g).map (·.desc)

theorem SameChains.members {s t : State} (h : SameChains s t) (g : Nat) : t.members g = s.members g :=
  State.members_congr h.channels (h.groups g)

theorem SameChains.endGroup {s t : State} (h : SameChains s t) (l : Load) (s0 : State) (g : Nat) :
    SameChains s (endGroup l s0 t g) where
  channels := (descOf_endGroup l s0 t g).trans h.channels
  groups k := (groupDesc_endGroup l s0 t g k).trans (h.groups k)

theorem sameChains_endChannels (l : Load) (s : State) : SameChains s (indices.foldl (endChannel l s) s) where
  channels := State.descOf_congr (foldl_field State.channels _ (channels_endChannel l s) _ s)
  groups g := congrArg _ (group?_congr (foldl_field State.groups _ (groups_endChannel l s) _ s) g)

/-- R31: a channel stands on the chain of the group it names, and on no other. -/
theorem ChainLaw.members_channel {s : State} (h : ChainLaw s) {n : Nat} {c : Channel} (hc : s.channel? n = some c) :
    (∃ gr, s.group? c.desc.group = some gr) ∧ ∀ g, n ∈ s.members g ↔ g = c.desc.group := by
  obtain ⟨hgroups, hchannels, -⟩ := h
  have hmem := hchannels n c hc
  have hsome : ∀ g, n ∈ s.members g → ∃ gr, s.group? g = some gr := by
    intro g hg
    cases hgr : s.group? g with
    | none => simp [State.members, hgr] at hg
    | some gr => exact ⟨gr, rfl⟩
  refine ⟨hsome _ hmem, fun g => ⟨fun hg => ?_, fun hg => hg ▸ hmem⟩⟩
  obtain ⟨gr, hgr⟩ := hsome g hg
  obtain ⟨d, hd, hname, -⟩ := (hgroups g gr hgr).2.2.2 n hg
  cases hc.symm.trans hd
  exact hname.symm

/-! ### A place after the endings -/

/-- R127: the endings do nothing to a group that is carried. -/
theorem group?_endOldSet_of_carried {s : State} {l : Load} {n : Nat} (h : carriesGroup s l n = true) :
    (endOldSet l s).group? n = s.group? n := by
  unfold endOldSet
  refine (List.foldlRecOn (motive := fun u : State => u.group? n = (indices.foldl (endChannel l s) s).group? n) _ _ rfl
    fun u hu g _ => ?_).trans (group?_congr (foldl_field State.groups _ (groups_endChannel l s) _ s) n)
  by_cases hg : n = g
  · rw [← hg, endGroup_of_carried h, hu]
  · rw [group?_endGroup_of_ne hg, hu]

/-- R128: what the endings leave of a carried channel. -/
def Channel.afterEndings (c : Channel) (kept pinOpen : Bool) : Channel :=
  { c with
    pend := if kept then c.pend else none
    held := if kept || !pinOpen then c.held else none }

/-- R124, R128: a carried channel loses its pending buffer, and its held buffer with the pin, where its group ends. -/
theorem channel?_endOldSet_of_carried {s : State} {l : Load} {n : Nat} {c : Channel} (hlaw : ChainLaw s)
    (hc : s.channel? n = some c) (hcar : carriesChannel s l n = true) : (endOldSet l s).channel? n =
      some (c.afterEndings (carriesGroup s l c.desc.group) ((s.group? c.desc.group).bind (·.pin)).isSome) := by
  obtain ⟨⟨gr, hgr⟩, hmem⟩ := hlaw.members_channel hc
  have hother : ∀ u b, b ≠ c.desc.group → SameChains s u → (endGroup l s u b).channel? n = u.channel? n := by
    intro u b hb hu
    refine channel?_endGroup_of_not_mem (fun e => hb ((hmem b).1 e)) fun e => hb ((hmem b).1 ?_)
    rwa [hu.members] at e
  have hstart := sameChains_endChannels l s
  unfold endOldSet
  refine (indices_foldl_at (State.group?_lt hgr)
    (fun u => SameChains s u ∧ u.channel? n = some c ∧ u.group? c.desc.group = some gr)
    (fun u => SameChains s u ∧ u.channel? n =
      some (c.afterEndings (carriesGroup s l c.desc.group) ((s.group? c.desc.group).bind (·.pin)).isSome)) _
    ⟨hstart, ?_, ?_⟩ (fun u b hb => ?_) (fun u => ?_) fun u b hb => ?_).2
  · rw [channel?_congr (foldl_field State.channels _ (channels_endChannel l s) _ s), hc]
  · rw [group?_congr (foldl_field State.groups _ (groups_endChannel l s) _ s), hgr]
  · rintro ⟨hu, huc, hug⟩
    exact ⟨hu.endGroup l s b, (hother u b hb hu).trans huc, (group?_endGroup_of_ne (Ne.symm hb) l s u).trans hug⟩
  · rintro ⟨hu, huc, hug⟩
    refine ⟨hu.endGroup l s _, ?_⟩
    have hin : n ∈ s.members c.desc.group := (hmem _).2 rfl
    cases hk : carriesGroup s l c.desc.group with
    | true => rw [endGroup_of_carried hk, huc]; rfl
    | false =>
      rw [channel?_endGroup_of_mem hgr hug hk hin ((hu.members _).symm ▸ hin) hc huc hcar, hgr]
      cases hp : gr.pin <;> simp [Channel.afterEndings, hp]
  · rintro ⟨hu, huc⟩
    exact ⟨hu.endGroup l s b, (hother u b hb hu).trans huc⟩

end Sys2Proof.Machine

/-! SUPPORT. The status blocks through an install (R124 to R128): which of them wait to be written afterwards. -/
namespace Sys2Proof.Machine

/-! ### What an operation marks and what it spares (R132) -/

/-- From `s` to `t` the items of `P` wait as before, and the sequences being written are kept. With the empty `P` it says the
latter alone. -/
structure Spares (P : MirrorItem → Prop) (s t : State) : Prop where
  marked : ∀ i, P i → (Marked t i ↔ Marked s i)
  sequences : SequencesKept s t

section Spares
variable {P : MirrorItem → Prop} {s t u : State}

theorem Spares.of_mirror (h : t.mirror = s.mirror) : Spares P s t :=
  ⟨fun i _ => marked_of_mirror h i, SequencesKept.of_mirror h⟩

theorem Spares.trans (h : Spares P s t) (k : Spares P t u) : Spares P s u :=
  ⟨fun i hi => (k.marked i hi).trans (h.marked i hi), h.sequences.trans k.sequences⟩

theorem Spares.of_marks {is : List MirrorItem} (h : Marks s t is) (hP : ∀ i, P i → i ∉ is) : Spares P s t :=
  ⟨fun i hi => by simp [h.1 i, hP i hi], h.2⟩

theorem Spares.mark (h : Spares P s t) {j : MirrorItem} (hP : ¬ P j) : Spares P s (t.mark j) :=
  h.trans (.of_marks (marks_mark t j) fun _ hi e => hP (List.mem_singleton.1 e ▸ hi))

theorem marked_unmark {i j : MirrorItem} :
    Marked { s with mirror := s.mirror.unmark i } j ↔ Marked s j ∧ j ≠ i := by
  unfold Marked Mirror.unmark
  cases s.mirror.flight with
  | none => simp
  | some f =>
    by_cases hf : f.item = i
    · subst hf
      simp only [List.mem_filter, decide_eq_true_eq, Option.map_some, Option.some.injEq, exists_eq_left', if_true]
      simp only [Bool.false_eq_true, and_false, or_false]
      constructor
      · exact fun h => ⟨.inl h.1, h.2⟩
      · rintro ⟨h | h, hne⟩
        · exact ⟨h, hne⟩
        · exact absurd h.1.symm hne
    · simp only [List.mem_filter, decide_eq_true_eq, Option.map_some, Option.some.injEq, exists_eq_left', hf, if_false]
      constructor
      · rintro (h | h)
        · exact ⟨.inl h.1, h.2⟩
        · exact ⟨.inr h, fun e => hf (h.1.trans e)⟩
      · rintro ⟨h | h, hne⟩
        · exact .inl ⟨h, hne⟩
        · exact .inr h

theorem Spares.unmark (h : Spares P s t) {j : MirrorItem} (hP : ¬ P j) :
    Spares P s { t with mirror := t.mirror.unmark j } :=
  h.trans ⟨fun _ hi => by rw [marked_unmark]; exact and_iff_left fun e => hP (e ▸ hi), sequencesKept_unmark t j⟩

theorem Spares.foldl {β : Type} (f : State → β → State) (bs : List β) (hf : ∀ u b, Spares P u (f u b)) :
    Spares P s (bs.foldl f s) :=
  List.foldlRecOn (motive := Spares P s) bs f (.of_mirror rfl) fun u hu b _ => hu.trans (hf u b)

/-- The items are status blocks. -/
def OnlyBlocks (P : MirrorItem → Prop) : Prop := ∀ i, P i → i.isBlock = true

/-- An offer marks slots and a head word alone. -/
theorem Spares.offer (hP : OnlyBlocks P) (h : Spares P s t) (p : Port) (r : Record) : Spares P s (t.offer p r) := by
  refine h.trans (.of_marks (marks_offer t p r) fun i hi hm => ?_)
  have hblock := hP i hi
  rcases List.mem_append.1 hm with hm | hm
  · obtain ⟨k, -, rfl⟩ := List.mem_map.1 hm
    cases hblock
  · split at hm
    · cases List.mem_singleton.1 hm; cases hblock
    · cases hm

theorem Spares.raise (h : Spares P s t) (p : Port) (c : Cause) : Spares P s (t.raise p c) := h.trans (.of_mirror rfl)

theorem Spares.modChannel (h : Spares P s t) (n : Nat) (f : Channel → Channel) : Spares P s (t.modChannel n f) :=
  h.trans (.of_mirror rfl)

theorem Spares.offerBoth (hP : OnlyBlocks P) (h : Spares P s t) (r : Record) : Spares P s (t.offerBoth r) :=
  (h.offer hP .A r).offer hP .B r

end Spares

/-! ### The endings mark blocks of the old set alone (R126, R128) -/

section Endings
variable {P : MirrorItem → Prop} {l : Load} {s0 s : State}

theorem spares_endChannel (hP : OnlyBlocks P) (n : Nat) : Spares P s (endChannel l s0 s n) := by
  have h0 : Spares P s s := .of_mirror rfl
  unfold endChannel
  split
  · exact h0
  · split
    · exact h0
    · dsimp only
      split <;> split
      · exact (h0.offer hP _ _).offer hP _ _
      · exact h0.offer hP _ _
      · exact h0.offer hP _ _
      · exact h0

theorem spares_dropMemberPending (hP : OnlyBlocks P) (n : Nat) : Spares P s (dropMemberPending l s0 s n) := by
  have h0 : Spares P s s := .of_mirror rfl
  unfold dropMemberPending
  split
  · exact h0
  · split
    · split
      · exact (h0.modChannel n _).offer hP _ _
      · exact h0
    · exact h0

/-- The blocks of `P` belong to places where nothing is installed. -/
def OnlyAbsent (P : MirrorItem → Prop) (s : State) : Prop :=
  (∀ n, P (.chanBlock n) → s.channel? n = none) ∧ ∀ g, P (.groupBlock g) → s.group? g = none

theorem SameChains.onlyAbsent {t : State} (h : SameChains s t) (hP : OnlyAbsent P s) : OnlyAbsent P t := by
  refine ⟨fun n hn => ?_, fun g hg => ?_⟩
  · have := congrFun h.channels n
    simpa [State.descOf, hP.1 n hn] using this
  · have := h.groups g
    simpa [hP.2 g hg] using this

theorem spares_unpinMember {n : Nat} (hP : P (.chanBlock n) → s.channel? n = none) : Spares P s (unpinMember s n) := by
  have h0 : Spares P s s := .of_mirror rfl
  unfold unpinMember
  split
  · rename_i c hc
    split
    · exact (h0.modChannel n _).mark fun h => by simp [hP h] at hc
    · exact h0
  · exact h0

theorem spares_unpinMembers (hP : ∀ n, P (.chanBlock n) → s.channel? n = none) (ms : List Nat) :
    Spares P s (ms.foldl unpinMember s) := by
  refine (List.foldlRecOn (motive := fun u : State => Spares P s u ∧ ∀ n, P (.chanBlock n) → u.channel? n = none)
    ms unpinMember ⟨.of_mirror rfl, hP⟩ fun u hu n _ => ⟨hu.1.trans (spares_unpinMember (hu.2 n)), fun m hm => ?_⟩).1
  have hnone := hu.2 m hm
  rw [channel?_unpinMember]
  split
  · rename_i e; rw [← e, hnone]; rfl
  · exact hnone

theorem spares_releasePin (hb : OnlyBlocks P) (hP : OnlyAbsent P s) (g : Nat) (i : Bool) :
    Spares P s (releasePin g i s) := by
  unfold releasePin
  split
  · exact .of_mirror rfl
  · rename_i p hp
    have hstart : Spares P s (s.modGroup g fun gr => { gr with pin := none }) := .of_mirror rfl
    have hdrop : Spares P s (dropPin g s) :=
      (hstart.trans (spares_unpinMembers (s := s.modGroup g _) hP.1 (s.members g))).mark fun h => by simp [hP.2 g h] at hp
    exact (hdrop.offer hb _ _).raise _ _

theorem spares_endGroup (hb : OnlyBlocks P) (hP : OnlyAbsent P s) (g : Nat) : Spares P s (endGroup l s0 s g) := by
  unfold endGroup
  split
  · exact .of_mirror rfl
  · split
    · exact .of_mirror rfl
    · exact (spares_releasePin hb hP g true).trans (.foldl _ _ fun _ n => spares_dropMemberPending hb n)

/-- R126, R128: the endings mark blocks of installed channels and groups alone. -/
theorem spares_endOldSet (hb : OnlyBlocks P) (hP : OnlyAbsent P s) : Spares P s (endOldSet l s) := by
  have hstart := sameChains_endChannels l s
  unfold endOldSet
  refine (List.foldlRecOn (motive := fun u => Spares P s u ∧ SameChains s u) indices _
    ⟨.foldl _ _ fun _ n => spares_endChannel hb n, hstart⟩ fun u hu g _ => ?_).1
  exact ⟨hu.1.trans (spares_endGroup hb (hu.2.onlyAbsent hP) g), hu.2.endGroup l s g⟩

end Endings

/-! ### The blocks that are settled (R124 to R128) -/

section Settling
variable {P : MirrorItem → Prop} {l : Load} {s0 s : State}

/-- What the install does to the block `i` of a place: what ended is no longer written, what is installed is marked. -/
def State.settleBlock (i : MirrorItem) (ended installed : Bool) (s : State) : State :=
  let s1 := if ended then { s with mirror := s.mirror.unmark i } else s
  if installed then s1.mark i else s1

theorem settleChanBlock_eq (l : Load) (s0 s : State) (n : Nat) : settleChanBlock l s0 s n =
    s.settleBlock (.chanBlock n) ((s0.channel? n).isSome && !carriesChannel s0 l n) (s.channel? n).isSome := by
  unfold settleChanBlock State.settleBlock
  cases (s0.channel? n).isSome && !carriesChannel s0 l n <;> rfl

theorem settleGroupBlock_eq (l : Load) (s0 s : State) (g : Nat) : settleGroupBlock l s0 s g =
    s.settleBlock (.groupBlock g) ((s0.group? g).isSome && !carriesGroup s0 l g) (s.group? g).isSome := by
  unfold settleGroupBlock State.settleBlock
  cases (s0.group? g).isSome && !carriesGroup s0 l g <;> rfl

theorem spares_settleBlock {i : MirrorItem} (hP : ¬ P i) (ended installed : Bool) :
    Spares P s (s.settleBlock i ended installed) := by
  have h0 : Spares P s s := .of_mirror rfl
  cases ended <;> cases installed
  · exact h0
  · exact h0.mark hP
  · exact h0.unmark hP
  · exact (h0.unmark hP).mark hP

theorem marked_settleBlock (i : MirrorItem) (ended installed : Bool) : Marked (s.settleBlock i ended installed) i ↔
    installed = true ∨ (Marked s i ∧ ended = false) := by
  cases ended <;> cases installed <;> simp [State.settleBlock, marked_unmark]

/-- The blocks of all places are settled. -/
def settleBlocks (l : Load) (s0 s : State) : State :=
  indices.foldl (settleGroupBlock l s0) (indices.foldl (settleChanBlock l s0) s)

/-- R132: settling the blocks keeps the sequences that are being written. -/
theorem sequencesKept_settleBlocks : SequencesKept s (settleBlocks l s0 s) := by
  have hchan : Spares (fun _ => False) s (indices.foldl (settleChanBlock l s0) s) :=
    .foldl _ _ fun u n => settleChanBlock_eq l s0 u n ▸ spares_settleBlock id _ _
  exact (hchan.trans (.foldl _ _ fun u g => settleGroupBlock_eq l s0 u g ▸ spares_settleBlock id _ _)).sequences

/-- R124, R126: the block of place `n` waits if a channel is installed there, or if it waited and no channel ended there. -/
theorem marked_settleBlocks_chan {n : Nat} (hn : n < 24) : Marked (settleBlocks l s0 s) (.chanBlock n) ↔
    (s.channel? n).isSome = true ∨
      (Marked s (.chanBlock n) ∧ ((s0.channel? n).isSome && !carriesChannel s0 l n) = false) := by
  have hgroups : ∀ u : State, Marked (indices.foldl (settleGroupBlock l s0) u) (.chanBlock n) ↔ Marked u (.chanBlock n) :=
    fun u => (Spares.foldl (P := (· = .chanBlock n)) (s := u) _ _ fun v g =>
      settleGroupBlock_eq l s0 v g ▸ spares_settleBlock (by simp) _ _).marked _ rfl
  unfold settleBlocks
  rw [hgroups]
  refine indices_foldl_at hn (fun u => u.channels = s.channels ∧ (Marked u (.chanBlock n) ↔ Marked s (.chanBlock n)))
    (fun u => Marked u (.chanBlock n) ↔ _) _ ⟨rfl, Iff.rfl⟩
    (fun u b hb hu => ⟨(channels_settleChanBlock l s0 u b).trans hu.1, ?_⟩) (fun u hu => ?_) fun u b hb hu => ?_
  · rw [settleChanBlock_eq, ← hu.2]
    exact (spares_settleBlock (P := (· = .chanBlock n)) (by simpa using hb) _ _).marked _ rfl
  · rw [settleChanBlock_eq, marked_settleBlock, hu.2, channel?_congr hu.1]
  · rw [settleChanBlock_eq, ← hu]
    exact (spares_settleBlock (P := (· = .chanBlock n)) (by simpa using hb) _ _).marked _ rfl

/-- R127, R128: the same for the block of group place `g`. -/
theorem marked_settleBlocks_group {g : Nat} (hg : g < 24) : Marked (settleBlocks l s0 s) (.groupBlock g) ↔
    (s.group? g).isSome = true ∨
      (Marked s (.groupBlock g) ∧ ((s0.group? g).isSome && !carriesGroup s0 l g) = false) := by
  have hchan : Spares (· = .groupBlock g) s (indices.foldl (settleChanBlock l s0) s) :=
    .foldl _ _ fun v n => settleChanBlock_eq l s0 v n ▸ spares_settleBlock (by simp) _ _
  have hsame := group?_congr (foldl_field State.groups _ (groups_settleChanBlock l s0) indices s) g
  unfold settleBlocks
  rw [← hchan.marked _ rfl, ← hsame]
  generalize indices.foldl (settleChanBlock l s0) s = s
  refine indices_foldl_at hg (fun u => u.groups = s.groups ∧ (Marked u (.groupBlock g) ↔ Marked s (.groupBlock g)))
    (fun u => Marked u (.groupBlock g) ↔ _) _ ⟨rfl, Iff.rfl⟩
    (fun u b hb hu => ⟨(groups_settleGroupBlock l s0 u b).trans hu.1, ?_⟩) (fun u hu => ?_) fun u b hb hu => ?_
  · rw [settleGroupBlock_eq, ← hu.2]
    exact (spares_settleBlock (P := (· = .groupBlock g)) (by simpa using hb) _ _).marked _ rfl
  · rw [settleGroupBlock_eq, marked_settleBlock, hu.2, group?_congr hu.1]
  · rw [settleGroupBlock_eq, ← hu]
    exact (spares_settleBlock (P := (· = .groupBlock g)) (by simpa using hb) _ _).marked _ rfl

end Settling
end Sys2Proof.Machine

/-! SUPPORT. The install as a whole (R123 to R129), place by place; chains of a table set, resumed buffers, signatures and
the deadlines of a new set. -/
namespace Sys2Proof.Machine

/-! ### The state in which the install has had its effect -/

/-- The state after the install of load `l`, before the held accesses are taken (R95). -/
def installed (l : Load) (s : State) : State :=
  continueLoader ((reportLoadEnd l .ok Detail.nothing
    (indices.foldl (offerResumed l s) (settleBlocks l s (takeNewSet l s (endOldSet l s))))).mark (.part 4))

theorem exec_install {s : State} {l : Load} (hl : s.loader = .draining l)
    (hfree : s.inFlight? .A = none ∧ s.inFlight? .B = none) :
    exec .install s = .next (grant (noteReports s (takeHeld (installed l s)))) := by
  have hidle : ∀ p, s.inFlight? p = none → (s.access p).inFlight = false := by
    intro p hp
    unfold State.inFlight? at hp
    unfold AccessState.inFlight
    split at hp <;> simp_all
  have howed : installOwed s = true := by simp [installOwed, hl, hidle _ hfree.1, hidle _ hfree.2]
  have hinstall : install s = takeHeld (installed l s) := by
    unfold install
    rw [hl]
    exact if_pos howed
  have hexec : exec .install s = .next (dueEvent (installOwed s) install s) := rfl
  rw [hexec, dueEvent, if_pos howed, event, ungranted, hinstall]

section Places
variable {l : Load} {s : State} {n : Nat}

theorem channel?_installed (hn : n < 24) : (installed l s).channel? n = newChannel l s (endOldSet l s) n := by
  have hchannels : (installed l s).channels = (takeNewSet l s (endOldSet l s)).channels := by
    unfold installed settleBlocks
    rw [channels_continueLoader, State.mark_channels, channels_reportLoadEnd,
      foldl_field State.channels _ (channels_offerResumed l s), foldl_field State.channels _ (channels_settleGroupBlock l s),
      foldl_field State.channels _ (channels_settleChanBlock l s)]
  rw [channel?_congr hchannels, channel?_takeNewSet, if_pos hn]

theorem group?_installed (hn : n < 24) : (installed l s).group? n = newGroup l s (endOldSet l s) n := by
  have hgroups : (installed l s).groups = (takeNewSet l s (endOldSet l s)).groups := by
    unfold installed settleBlocks
    rw [groups_continueLoader, State.mark_groups, groups_reportLoadEnd,
      foldl_field State.groups _ (groups_offerResumed l s), foldl_field State.groups _ (groups_settleGroupBlock l s),
      foldl_field State.groups _ (groups_settleChanBlock l s)]
  rw [group?_congr hgroups, group?_takeNewSet, if_pos hn]

theorem clock_endOldSet : (endOldSet l s).clock = s.clock :=
  (endOldSet_only l s).clock

/-! ### Which places are filled -/

theorem carriesGroup_iff {g : Nat} : carriesGroup s l g = true ↔ ∃ gr, s.group? g = some gr ∧ (l.group g).valid = true ∧
    (l.group g).w0 = gr.desc.w0 ∧ l.chain g = s.members g ∧
    ∀ m ∈ s.members g, ∃ c, s.channel? m = some c ∧ (l.chan m).valid = true ∧ (l.chan m).sameBody c.desc = true := by
  unfold carriesGroup
  cases s.group? g with
  | none => simp
  | some gr => simp [carriesChannel_iff, and_assoc]

theorem carriesChannel_eq_false_of_invalid (h : (l.chan n).valid = false) : carriesChannel s l n = false := by
  rw [Bool.eq_false_iff]
  intro hcar
  obtain ⟨c, -, hvalid, -⟩ := carriesChannel_iff.1 hcar
  rw [h] at hvalid
  cases hvalid

theorem carriesGroup_eq_false_of_invalid (h : (l.group n).valid = false) : carriesGroup s l n = false := by
  rw [Bool.eq_false_iff]
  intro hcar
  obtain ⟨gr, -, hvalid, -⟩ := carriesGroup_iff.1 hcar
  rw [h] at hvalid
  cases hvalid

/-- R124, R125: after the install a channel stands exactly at the places of valid descriptors. -/
theorem isSome_newChannel : (newChannel l s (endOldSet l s) n).isSome = (l.chan n).valid := by
  unfold newChannel
  split
  · rename_i hcar
    obtain ⟨c, hc, hvalid, -⟩ := carriesChannel_iff.1 hcar
    have hdesc := congrFun (descOf_endOldSet l s) n
    rw [State.descOf, State.descOf, hc] at hdesc
    obtain ⟨d, hd, -⟩ := Option.map_eq_some_iff.1 hdesc
    rw [hd, hvalid]
    rfl
  · split <;> simp_all

/-- R127, R128: and a group exactly at the places of valid group descriptors. -/
theorem isSome_newGroup : (newGroup l s (endOldSet l s) n).isSome = (l.group n).valid := by
  unfold newGroup
  split
  · rename_i hcar
    obtain ⟨gr, hgr, hvalid, -⟩ := carriesGroup_iff.1 hcar
    rw [group?_endOldSet_of_carried hcar, hgr, hvalid]
    rfl
  · split <;> simp_all

theorem channel?_installed_of_carried {c : Channel} (hlaw : ChainLaw s) (hc : s.channel? n = some c)
    (hvalid : (l.chan n).valid = true) (hsame : (l.chan n).sameBody c.desc = true) : (installed l s).channel? n =
      some ((c.afterEndings (carriesGroup s l c.desc.group) ((s.group? c.desc.group).bind (·.pin)).isSome).carried
        (l.chan n) s.clock) := by
  have hcar : carriesChannel s l n = true := carriesChannel_iff.2 ⟨c, hc, hvalid, hsame⟩
  rw [channel?_installed (State.channel?_lt hc), newChannel, if_pos hcar, channel?_endOldSet_of_carried hlaw hc hcar,
    clock_endOldSet]
  rfl

theorem channel?_installed_of_created (hn : n < 24) (hvalid : (l.chan n).valid = true)
    (hnew : ∀ c, s.channel? n = some c → (l.chan n).sameBody c.desc = false) :
    (installed l s).channel? n = some (Channel.created (l.chan n) (l.resumed n) s.clock) := by
  have hcar : ¬ carriesChannel s l n = true := by
    intro h
    obtain ⟨c, hc, -, hsame⟩ := carriesChannel_iff.1 h
    rw [hnew c hc] at hsame
    cases hsame
  rw [channel?_installed hn, newChannel, if_neg hcar, if_pos hvalid, clock_endOldSet]

theorem channel?_installed_of_invalid (hn : n < 24) (h : (l.chan n).valid = false) : (installed l s).channel? n = none := by
  rw [channel?_installed hn, ← Option.not_isSome_iff_eq_none, isSome_newChannel, h]
  exact Bool.false_ne_true

theorem group?_installed_of_carried {gr : Group} (hgr : s.group? n = some gr) (hcar : carriesGroup s l n = true) :
    (installed l s).group? n = some (gr.carried (l.group n) s.clock) := by
  rw [group?_installed (State.group?_lt hgr), newGroup, if_pos hcar, group?_endOldSet_of_carried hcar, hgr, clock_endOldSet]
  rfl

theorem group?_installed_of_created (hn : n < 24) (hvalid : (l.group n).valid = true)
    (hcar : carriesGroup s l n = false) : (installed l s).group? n = some (Group.created (l.group n) s.clock) := by
  rw [group?_installed hn, newGroup, hcar, if_neg Bool.false_ne_true, if_pos hvalid, clock_endOldSet]

theorem group?_installed_of_invalid (hn : n < 24) (h : (l.group n).valid = false) : (installed l s).group? n = none := by
  rw [group?_installed hn, ← Option.not_isSome_iff_eq_none, isSome_newGroup, h]
  exact Bool.false_ne_true

/-! ### The blocks that wait after the install -/

/-- The install marks no block after the blocks are settled. -/
theorem spares_installed {P : MirrorItem → Prop} (hP : OnlyBlocks P) :
    Spares P (settleBlocks l s (takeNewSet l s (endOldSet l s))) (installed l s) := by
  have hpart : ∀ k, ¬ P (.part k) := fun k h => nomatch hP _ h
  have hresumed : ∀ u n, Spares P u (offerResumed l s u n) := by
    intro u n
    unfold offerResumed
    split
    · split
      · exact Spares.offerBoth hP (.of_mirror rfl) _
      · exact .of_mirror rfl
    · exact .of_mirror rfl
  have hreport : ∀ u, Spares P u (reportLoadEnd l .ok Detail.nothing u) := by
    intro u
    have hresult : Spares P u { u with lastResult := { gen := l.gen, code := .ok, detail := Detail.nothing } } :=
      .of_mirror rfl
    exact ((((hresult.mark (hpart 2)).mark (hpart 3)).offerBoth hP _).raise _ _).raise _ _
  have hcontinue : ∀ u, Spares P u (continueLoader u) := by
    intro u
    refine Spares.mark ?_ (hpart 1)
    split <;> exact .of_mirror rfl
  exact (((Spares.foldl _ indices hresumed).trans (hreport _)).mark (hpart 4)).trans (hcontinue _)

/-- R132: the install keeps the sequences that are being written. -/
theorem sequencesKept_installed : SequencesKept s (installed l s) := by
  have hends : Spares (fun _ => False) s (endOldSet l s) :=
    spares_endOldSet (fun _ h => h.elim) ⟨fun _ h => h.elim, fun _ h => h.elim⟩
  have hnew : SequencesKept (endOldSet l s) (takeNewSet l s (endOldSet l s)) := .of_mirror rfl
  exact ((hends.sequences.trans hnew).trans sequencesKept_settleBlocks).trans
    (spares_installed (P := fun _ => False) fun _ h => h.elim).sequences

/-- R124 to R126: the block of channel place `n` waits after the install. -/
theorem marked_installed_chan (hn : n < 24) : Marked (installed l s) (.chanBlock n) ↔ (l.chan n).valid = true ∨
    (Marked (endOldSet l s) (.chanBlock n) ∧ ((s.channel? n).isSome && !carriesChannel s l n) = false) := by
  rw [(spares_installed (P := (· = .chanBlock n)) fun _ h => h ▸ rfl).marked _ rfl, marked_settleBlocks_chan hn,
    channel?_takeNewSet, if_pos hn, isSome_newChannel]
  rfl

/-- R127, R128: the block of group place `n` waits after the install. -/
theorem marked_installed_group (hn : n < 24) : Marked (installed l s) (.groupBlock n) ↔ (l.group n).valid = true ∨
    (Marked (endOldSet l s) (.groupBlock n) ∧ ((s.group? n).isSome && !carriesGroup s l n) = false) := by
  rw [(spares_installed (P := (· = .groupBlock n)) fun _ h => h ▸ rfl).marked _ rfl, marked_settleBlocks_group hn,
    group?_takeNewSet, if_pos hn, isSome_newGroup]
  rfl

theorem marked_installed_chan_of_absent (hn : n < 24) (hs : s.channel? n = none) (h : (l.chan n).valid = false) :
    Marked (installed l s) (.chanBlock n) ↔ Marked s (.chanBlock n) := by
  have hends : Spares (· = .chanBlock n) s (endOldSet l s) :=
    spares_endOldSet (fun _ e => e ▸ rfl) ⟨fun _ e => by cases e; exact hs, fun _ e => (nomatch e)⟩
  rw [marked_installed_chan hn, hs, h, hends.marked _ rfl]
  simp

theorem marked_installed_group_of_absent (hn : n < 24) (hs : s.group? n = none) (h : (l.group n).valid = false) :
    Marked (installed l s) (.groupBlock n) ↔ Marked s (.groupBlock n) := by
  have hends : Spares (· = .groupBlock n) s (endOldSet l s) :=
    spares_endOldSet (fun _ e => e ▸ rfl) ⟨fun _ e => (nomatch e), fun _ e => by cases e; exact hs⟩
  rw [marked_installed_group hn, hs, h, hends.marked _ rfl]
  simp

theorem not_marked_installed_chan_of_ended (hn : n < 24) (hs : (s.channel? n).isSome = true)
    (h : (l.chan n).valid = false) : ¬ Marked (installed l s) (.chanBlock n) := by
  rw [marked_installed_chan hn, hs, h, carriesChannel_eq_false_of_invalid h]
  simp

theorem not_marked_installed_group_of_ended (hn : n < 24) (hs : (s.group? n).isSome = true)
    (h : (l.group n).valid = false) : ¬ Marked (installed l s) (.groupBlock n) := by
  rw [marked_installed_group hn, hs, h, carriesGroup_eq_false_of_invalid h]
  simp

end Places

/-! ### The chain of a walk (R119) -/

theorem chainFrom_member {l : Load} {g n : Nat} (hwalk : ∀ k, k < n → l.WalksOn g n k) (r : Nat) :
    ∀ k fuel, k + (r + 1) = n → r + 1 ≤ fuel →
      chainFrom l.nextOf fuel (l.member g k) = (List.range' k (r + 1)).map (l.member g) := by
  induction r with
  | zero =>
    rintro k (_ | fuel) hk hfuel
    · omega
    · obtain ⟨hlt, hvalid, -, hend, -⟩ := hwalk k (by omega)
      simp [chainFrom, Load.nextOf, hlt, hvalid, chainEnd, hend.2 hk]
  | succ r ih =>
    rintro k (_ | fuel) hk hfuel
    · omega
    · obtain ⟨hlt, hvalid, -, hend, -⟩ := hwalk k (by omega)
      have hon : (l.chan (l.member g k)).nextMember ≠ 31 := fun e => by have := hend.1 e; omega
      have hnext := ih (k + 1) fuel (by omega) (by omega)
      rw [List.range'_succ, List.map_cons, ← hnext]
      simp [chainFrom, Load.nextOf, hlt, hvalid, chainEnd, hon, Load.member]

/-- R119: a walk visits none of the 24 channels twice. -/
theorem Load.walksTo_le {l : Load} {g n : Nat} (hwalk : ∀ k, k < n → l.WalksOn g n k) : n ≤ 24 := by
  have hcard := Finset.card_le_card_of_injOn (s := Finset.range n) (t := Finset.range 24) (l.member g)
    (fun k hk => Finset.mem_coe.2 (Finset.mem_range.2 (hwalk k (Finset.mem_range.1 hk)).1))
    fun i hi j hj hij => by
      have hdistinct : ∀ a b, b < n → a < b → l.member g a ≠ l.member g b := fun a b hb => (hwalk b hb).2.2.2.2 a
      rcases Nat.lt_trichotomy i j with h | h | h
      · exact absurd hij (hdistinct i j (Finset.mem_range.1 hj) h)
      · exact h
      · exact absurd hij.symm (hdistinct j i (Finset.mem_range.1 hi) h)
  simpa using hcard

theorem Load.chain_of_walksTo {l : Load} {g n : Nat} (h : l.walksTo g n = true) :
    l.chain g = (List.range n).map (l.member g) := by
  obtain ⟨hpos, hwalk⟩ := of_decide_eq_true h
  obtain ⟨r, rfl⟩ := Nat.exists_eq_add_of_le' hpos
  rw [List.range_eq_range']
  exact chainFrom_member hwalk r 0 24 (by omega) (Load.walksTo_le hwalk)

/-! ### Resumed buffers (R125) -/

theorem Load.statusWords_eq_some {l : Load} {n : Nat} {x y : Word × Bool} : l.statusWords n = some (x, y) ↔
    ∃ k, l.cands.idxOf? n = some k ∧ l.resume[2 * k]? = some x ∧ l.resume[2 * k + 1]? = some y := by
  unfold Load.statusWords
  cases l.cands.idxOf? n with
  | none => simp
  | some k => cases h0 : l.resume[2 * k]? <;> cases h1 : l.resume[2 * k + 1]? <;> simp [h0, h1]

theorem Load.resumed_eq_some {l : Load} {n b : Nat} : l.resumed n = some b ↔ (l.chan n).resume = true ∧
    ∃ s0 s3, l.statusWords n = some ((s0, true), (s3, true)) ∧ s3.extractLsb' 0 16 = (l.chan n).signature ∧
      s0.getLsbD 0 = false ∧ b = (s0.extractLsb' 8 3).toNat ∧ b < (l.chan n).depth := by
  unfold Load.resumed
  cases (l.chan n).resume with
  | false => simp
  | true =>
    cases l.statusWords n with
    | none => simp
    | some w =>
      obtain ⟨⟨s0, ok0⟩, s3, ok3⟩ := w
      simp only [field, if_true, true_and, Option.ite_none_right_eq_some, Bool.and_eq_true, beq_iff_eq,
        Bool.not_eq_true', Option.some.injEq, Prod.mk.injEq]
      constructor
      · rintro ⟨⟨⟨⟨⟨hok0, hok3⟩, hsig⟩, heven⟩, hlt⟩, rfl⟩
        exact ⟨s0, s3, ⟨⟨rfl, hok0⟩, rfl, hok3⟩, hsig, heven, rfl, of_decide_eq_true hlt⟩
      · rintro ⟨_, _, ⟨⟨rfl, hok0⟩, rfl, hok3⟩, hsig, heven, rfl, hlt⟩
        exact ⟨⟨⟨⟨⟨hok0, hok3⟩, hsig⟩, heven⟩, decide_eq_true hlt⟩, rfl⟩

/-! ### Signatures and deadlines (R59, R62, R110) -/

theorem halvesSum_toNat (w : Word) :
    (halvesSum w).toNat = ((w.extractLsb' 16 16).toNat + (w.extractLsb' 0 16).toNat) % 65536 := by
  rw [halvesSum, BitVec.toNat_add]

theorem ChanDesc.signature_toNat (d : ChanDesc) : d.signature.toNat =
    (([d.w0, d.w1, d.w2, d.w3, d.w4, d.w5, d.w6].map fun w =>
      (w.extractLsb' 16 16).toNat + (w.extractLsb' 0 16).toNat).sum) % 65536 := by
  simp only [ChanDesc.signature, BitVec.toNat_add, halvesSum_toNat, List.map_cons, List.map_nil, List.sum_cons, List.sum_nil]
  omega

theorem formDeadline_zero (start : Word) : formDeadline start 0 = none := rfl

theorem formDeadline_of_ne {limit : BitVec 16} (h : limit ≠ 0) (start : Word) :
    formDeadline start limit = some { start := start, limit := limit } := if_neg h

theorem reformDeadline_zero (start now : Word) : reformDeadline start 0 now = none := rfl

theorem reformDeadline_of_lt {start now : Word} {limit : BitVec 16} (h : limit ≠ 0)
    (hlt : (now - start).toNat < limit.toNat) : reformDeadline start limit now = some { start := start, limit := limit } := by
  rw [reformDeadline, if_neg h, if_pos hlt]

theorem reformDeadline_of_le {start now : Word} {limit : BitVec 16} (h : limit ≠ 0)
    (hle : limit.toNat ≤ (now - start).toNat) : reformDeadline start limit now = some { start := now, limit := 1 } := by
  rw [reformDeadline, if_neg h, if_neg (Nat.not_lt.2 hle)]

theorem carryDeadline_same (dl : Option Deadline) (openTime now : Word) (limit : BitVec 16) :
    carryDeadline dl openTime limit limit now = dl := if_pos rfl

theorem carryDeadline_of_ne {old new : BitVec 16} (h : old ≠ new) (dl : Option Deadline) (openTime now : Word) :
    carryDeadline dl openTime old new now = reformDeadline ((dl.map (·.start)).getD openTime) new now := if_neg h

end Sys2Proof.Machine

/-! SUPPORT. The install settles what it says of each place (R123 to R129). -/
namespace Sys2Proof.Machine

/-- Settles O46: the endings, cut at the turn of the place's group, leave a carried channel what R128 leaves it; the new set
then fills each place by one case of R124 to R128, and the blocks follow the places. -/
theorem anInstallCarriesCreatesAndEnds : Obligations.AnInstallCarriesCreatesAndEnds := by
  unfold Obligations.AnInstallCarriesCreatesAndEnds
  refine ⟨fun s l n hn hl hfree => ⟨installed l s, exec_install hl hfree, channel?_installed_of_invalid hn, ?_,
    fun hvalid hnew => (channel?_installed_of_created hn hvalid hnew).trans rfl, group?_installed_of_invalid hn,
    fun gr hgr hcar => (group?_installed_of_carried hgr hcar).trans rfl,
    fun hvalid hcar => (group?_installed_of_created hn hvalid hcar).trans rfl,
    fun hvalid => (marked_installed_chan hn).2 (.inl hvalid), fun hvalid => (marked_installed_group hn).2 (.inl hvalid),
    not_marked_installed_chan_of_ended hn, not_marked_installed_group_of_ended hn,
    fun _ => marked_installed_chan_of_absent hn, fun _ => marked_installed_group_of_absent hn, sequencesKept_installed⟩,
    fun s l g => carriesGroup_iff, fun l g n => Load.chain_of_walksTo, fun l n b => ?_, ChanDesc.sameBody_iff,
    ChanDesc.signature_toNat, fun start limit => ⟨fun h => h ▸ rfl, fun h => formDeadline_of_ne h start⟩,
    fun start now limit => ⟨fun h => h ▸ reformDeadline_zero start now, reformDeadline_of_lt, reformDeadline_of_le⟩,
    fun dl openTime now old new => ⟨fun h => h ▸ carryDeadline_same dl openTime now old, fun h hdl => ?_,
      fun x h hdl => ?_⟩⟩
  · intro c hlaw hc hvalid hsame
    exact (channel?_installed_of_carried hlaw hc hvalid hsame).trans rfl
  · rw [Load.resumed_eq_some]
    simp only [Load.statusWords_eq_some]
    constructor
    · rintro ⟨hresume, s0, s3, ⟨k, hk, h0, h3⟩, hrest⟩
      exact ⟨hresume, k, s0, s3, hk, h0, h3, hrest⟩
    · rintro ⟨hresume, k, s0, s3, hk, h0, h3, hrest⟩
      exact ⟨hresume, s0, s3, ⟨k, hk, h0, h3⟩, hrest⟩
  · rw [carryDeadline_of_ne h, hdl]; rfl
  · rw [carryDeadline_of_ne h, hdl]; rfl

end Sys2Proof.Machine

/-! SUPPORT. The table set that is installed: the descriptors at the places, and what a drain will install. Everything but an
install and a fall of RST_N keeps it, so the laws that speak of nothing else are kept (R30, R31, R64). -/
namespace Sys2Proof.Machine

/-! ### The installed set -/

/-- From `s` to `t` every place keeps its descriptor, and a drain that has begun has a table set that passed validation. -/
structure SameSet (s t : State) : Prop extends SameChains s t where
  loader : ∀ l, t.loader = .draining l → s.loader = .draining l ∨ ∃ fitted, l.validate fitted = none

section SameSet
variable {s t u : State}

theorem SameSet.of_fields (hc : t.channels = s.channels) (hg : t.groups = s.groups) (hl : t.loader = s.loader) :
    SameSet s t where
  channels := State.descOf_congr hc
  groups g := congrArg _ (group?_congr hg g)
  loader _ h := .inl (hl ▸ h)

/-- The Loader goes to a state that drains nothing but what validation has passed. -/
theorem SameSet.of_loader (hc : t.channels = s.channels) (hg : t.groups = s.groups)
    (hl : ∀ l, t.loader = .draining l → ∃ fitted, l.validate fitted = none) : SameSet s t where
  channels := State.descOf_congr hc
  groups g := congrArg _ (group?_congr hg g)
  loader l h := .inr (hl l h)

theorem SameSet.refl (s : State) : SameSet s s := .of_fields rfl rfl rfl

theorem SameSet.trans (h : SameSet s t) (k : SameSet t u) : SameSet s u where
  channels := k.channels.trans h.channels
  groups g := (k.groups g).trans (h.groups g)
  loader l hl := (k.loader l hl).elim (h.loader l) .inr

theorem SameSet.mark (h : SameSet s t) (i : MirrorItem) : SameSet s (t.mark i) := h.trans (.of_fields rfl rfl rfl)

theorem SameSet.raise (h : SameSet s t) (p : Port) (c : Cause) : SameSet s (t.raise p c) :=
  h.trans (.of_fields rfl rfl rfl)

theorem SameSet.offer (h : SameSet s t) (p : Port) (r : Record) : SameSet s (t.offer p r) :=
  h.trans (.of_fields rfl rfl rfl)

theorem SameSet.offerBoth (h : SameSet s t) (r : Record) : SameSet s (t.offerBoth r) := (h.offer .A r).offer .B r

theorem SameSet.setAccess (h : SameSet s t) (p : Port) (a : AccessState) : SameSet s (t.setAccess p a) :=
  h.trans (.of_fields rfl rfl rfl)

theorem SameSet.modChannel (h : SameSet s t) (n : Nat) (f : Channel → Channel)
    (hf : ∀ c, (f c).desc = c.desc := by exact fun _ => rfl) : SameSet s (t.modChannel n f) :=
  h.trans ⟨⟨State.descOf_modChannel t n f hf, fun _ => rfl⟩, fun _ hl => .inl hl⟩

theorem SameSet.modGroup (h : SameSet s t) (g : Nat) (f : Group → Group)
    (hf : ∀ gr, (f gr).desc = gr.desc := by exact fun _ => rfl) : SameSet s (t.modGroup g f) := by
  refine h.trans ⟨⟨rfl, fun k => ?_⟩, fun _ hl => .inl hl⟩
  rw [State.group?_modGroup]
  split
  · rename_i hk
    rw [hk, Option.map_map]
    exact congrArg (fun F => (t.group? g).map F) (funext hf)
  · rfl

theorem SameSet.foldl {β : Type} {f : State → β → State} (h : SameSet s t) (hf : ∀ v b, SameSet v (f v b))
    (bs : List β) : SameSet s (bs.foldl f t) :=
  List.foldlRecOn (motive := SameSet s) bs f h fun v hv b _ => hv.trans (hf v b)

/-! ### The exchange unit -/

theorem SameSet.publishPending (h : SameSet s t) (n : Nat) : SameSet s (publishPending t n) :=
  h.trans ⟨⟨descOf_publishPending t n, fun g => by rw [group?_congr (groups_publishPending t n)]⟩,
    fun _ hl => .inl ((publishPending_only t n).loader ▸ hl)⟩

theorem SameSet.publishMembers (h : SameSet s t) (g : Nat) : SameSet s (publishMembers g t) :=
  h.foldl (fun v n => (SameSet.refl v).publishPending n) _

theorem SameSet.publish (h : SameSet s t) (n b : Nat) (q x : Word) : SameSet s (publish n b q x t) := by
  unfold Machine.publish
  split
  · exact h
  · have hmod : SameSet s ((t.modChannel n fun c => c.published b t.clock).mark (.chanBlock n)) :=
      (h.modChannel n _).mark _
    dsimp only
    split
    · exact (hmod.offer _ _).raise _ _
    · exact hmod

theorem SameSet.endGather (h : SameSet s t) (g : Nat) : SameSet s (endGather g t) := (h.modGroup g _).mark _

theorem SameSet.memberGained (h : SameSet s t) (g : Nat) : SameSet s (memberGained g t) := by
  have hstart : SameSet s (startGather g t) := by
    unfold startGather
    split
    · split
      · exact (h.modGroup g _).mark _
      · exact h
    · exact h
  unfold Machine.memberGained
  split
  · unfold completeGather
    split
    · exact (hstart.publishMembers g).endGather g
    · exact hstart
  · exact h

theorem SameSet.endPass (h : SameSet s t) (n : Nat) :
    SameSet s ((t.modChannel n fun c => { c with pass := none }).mark (.chanBlock n)) :=
  (h.modChannel n _).mark _

theorem SameSet.faultPass (h : SameSet s t) (n : Nat) (c : Channel) (p : FillPass) (e : Bool) (r : Record) :
    SameSet s (faultPass n c p e r t) := by
  have hpass := (((h.endPass n).offer c.desc.producer r).raise c.desc.producer .fillFault)
  unfold Machine.faultPass
  dsimp only
  split
  · exact ((hpass.modChannel n _).offer _ _).mark _
  · exact hpass

theorem SameSet.closePass (h : SameSet s t) (n : Nat) (seq : Word) : SameSet s (closePass n seq t) := by
  unfold Machine.closePass
  split
  · exact h
  · rename_i c _
    split
    · exact h
    · rename_i p _
      split
      · split
        · rw [closeShed_eq]
          exact h.faultPass n c p false _
        · split
          · exact (h.endPass n).publish _ _ _ _
          · have hsup : SameSet s (supersede n c ((t.modChannel n fun c => { c with pass := none }).mark (.chanBlock n))) := by
              unfold supersede
              split
              · exact (h.endPass n).offer _ _
              · exact h.endPass n
            exact (hsup.modChannel n _).memberGained _
      · exact h

theorem SameSet.expirePass (h : SameSet s t) (n : Nat) : SameSet s (expirePass n t) := by
  unfold Machine.expirePass
  split
  · exact h
  · rename_i c _
    split
    · exact h
    · rename_i p _
      exact h.faultPass n c p true _

theorem SameSet.rearm (h : SameSet s t) (x : Port) (v : Word) : SameSet s (rearm x v t) := by
  refine h.foldl (fun w n => ?_) indices
  rw [rearmOne_eq]
  split
  · exact ((SameSet.refl w).modChannel n _).mark _
  · exact .refl w

theorem SameSet.takeProducerWrite (h : SameSet s t) (n off : Nat) : SameSet s (takeProducerWrite n off t).1 := by
  have hopen : SameSet s (openPass n t) := by
    unfold openPass
    split
    · split
      · exact (h.modChannel n _).mark _
      · exact h
    · exact h
  unfold Machine.takeProducerWrite
  dsimp only
  split
  · exact hopen.modChannel n _
  · exact hopen

theorem SameSet.openPin (h : SameSet s t) (g : Nat) : SameSet s (openPin g t) := by
  have hpin : ∀ v m, SameSet v (pinMember v m) := by
    intro v m
    have hmod : SameSet v (v.modChannel m Channel.pinned) := (SameSet.refl v).modChannel m _
    unfold pinMember
    split
    · dsimp only
      split
      · exact hmod
      · exact hmod.mark _
    · exact .refl v
  unfold Machine.openPin
  split
  · split
    · exact ((h.modGroup g _).mark _).foldl hpin _
    · exact h
  · exact h

theorem SameSet.takeConsumerRead (h : SameSet s t) (n off : Nat) : SameSet s (takeConsumerRead n off t).1 := by
  unfold Machine.takeConsumerRead
  split
  · exact h
  · dsimp only
    split
    · exact (h.openPin _).modGroup _ _
    · exact h.openPin _

theorem SameSet.dropPin (h : SameSet s t) (g : Nat) : SameSet s (dropPin g t) := by
  refine SameSet.mark (SameSet.foldl (h.modGroup g _) (fun v m => ?_) (t.members g)) _
  unfold unpinMember
  split
  · split
    · exact ((SameSet.refl v).modChannel m _).mark _
    · exact .refl v
  · exact .refl v

theorem SameSet.closePin (h : SameSet s t) (g : Nat) : SameSet s (closePin g t) := by
  unfold Machine.closePin
  split
  · exact h
  · dsimp only
    split
    · exact ((h.dropPin g).offer _ _).raise _ _
    · exact h.dropPin g

theorem SameSet.releasePin (h : SameSet s t) (g : Nat) (i : Bool) : SameSet s (releasePin g i t) := by
  unfold Machine.releasePin
  split
  · exact h
  · exact ((h.dropPin g).offer _ _).raise _ _

theorem SameSet.taintPin (h : SameSet s t) (g : Nat) : SameSet s (taintPin g t) := by
  unfold Machine.taintPin
  split
  · exact h
  · split
    · exact h
    · exact (h.modGroup g _).mark _

theorem SameSet.exchangeStep (h : SameSet s t) (k : Taken) (e : Lanes) : SameSet s (exchangeStep k e t) := by
  unfold Machine.exchangeStep exchangeCompletion
  split
  · split
    · split
      · split
        · exact h.closePass _ _
        · exact h
      · exact h
    · split
      · exact h
      · rename_i c _
        have htaint : SameSet s (if (e != 0) = true then Machine.taintPin c.desc.group t else t) := by
          split
          · exact h.taintPin _
          · exact h
        dsimp only
        split
        · exact htaint.closePin _
        · exact htaint
  · exact h

theorem SameSet.ownEvent (h : SameSet s t) {e : Instr} (he : e ≠ .install) : SameSet s (ownEvent e t) := by
  cases e
  case install => exact absurd rfl he
  case fillExpiry n => exact h.expirePass n
  case freshnessDeadlineReached n =>
    change SameSet s (becomeStale n t)
    unfold becomeStale
    split
    · exact h
    · exact ((h.modChannel n _).mark _).offer _ _
  case pinRelease g => exact h.releasePin g false
  case partialPublication g =>
    change SameSet s (partialPublication g t)
    unfold partialPublication
    split
    · exact h
    · exact ((h.publishMembers g).offer _ _).endGather g
  case frameTick g => exact ((h.publishMembers g).modGroup g _).mark _
  all_goals exact h

/-! ### Takes -/

theorem SameSet.takeCommit (h : SameSet s t) (v : Word) : SameSet s (takeCommit v t) := by
  have hread : ∀ l r, SameSet t { t with loader := .reading l, remembered := r } := fun _ _ =>
    .of_loader rfl rfl fun _ hl => nomatch hl
  unfold Machine.takeCommit
  split
  · exact h
  · split
    · exact (h.trans (hread _ _)).mark _
    · exact h.trans (.of_fields rfl rfl rfl)
    · exact h

theorem SameSet.handToOwner (h : SameSet s t) (x : Trigger) (v : Word) : SameSet s (handToOwner x v t) := by
  cases x with
  | commit => exact h.takeCommit v
  | enable y => exact h.trans (.of_fields rfl rfl rfl)
  | ack y => exact h.trans (.of_fields rfl rfl rfl)
  | jread y =>
    refine h.trans (SameSet.mark ?_ _)
    split
    · exact .of_fields rfl rfl rfl
    · exact .of_fields rfl rfl rfl
  | rearm y => exact h.rearm y v

theorem SameSet.violate (h : SameSet s t) (p : Port) (d : Drive) (k : ViolationKind) (n : Nat) (r : Option Nat) :
    SameSet s (violate p d k n r t) := (h.offer _ _).raise _ _

theorem SameSet.take (h : SameSet s t) (p : Port) (d : Drive) : SameSet s (take p d t) := by
  have hact : ∀ o x, SameSet s (actOnTake p d x o t) := by
    intro o x
    unfold actOnTake
    split
    · exact h.handToOwner _ _
    · exact h.violate _ _ _ _ _
    · exact h
  refine SameSet.setAccess ?_ p _
  unfold decodeAndAct
  split
  · exact hact _ _
  · unfold takeChannel
    split
    · exact h
    · split
      · split
        · exact h.takeProducerWrite _ _
        · exact h
      · split
        · exact h.violate _ _ _ _ _
        · exact h.takeConsumerRead _ _
  · exact hact _ _
  · exact h
  · exact h
  · exact h

theorem SameSet.arriveIfRequested (h : SameSet s t) (p : Port) : SameSet s (arriveIfRequested p t) := by
  unfold Machine.arriveIfRequested arrive
  split
  · split
    · exact h.setAccess _ _
    · exact h.take _ _
  · exact h

theorem SameSet.present (h : SameSet s t) (p : Port) (d : Drive) : SameSet s (present p d t) := by
  have hdrive : SameSet s (drivePort p d t) := h.trans (.of_fields rfl rfl rfl)
  unfold Machine.present
  split
  · exact hdrive.arriveIfRequested p
  · exact hdrive

theorem SameSet.takeHeld (h : SameSet s t) : SameSet s (takeHeld t) := by
  have hone : ∀ p v, SameSet s v → SameSet s (takeHeldOf p v) := fun p v hv => by
    unfold takeHeldOf
    split
    · exact hv.take _ _
    · exact hv
  exact hone .B _ (hone .A _ h)

theorem SameSet.dropReq (h : SameSet s t) (p : Port) : SameSet s (dropReq p t) := by
  unfold Machine.dropReq
  split
  · exact h.trans (.of_fields rfl rfl rfl)
  · exact h

/-! ### Completions, the Loader and the Mirror -/

theorem SameSet.noteReports (h : SameSet s t) (b : State) : SameSet s (noteReports b t) :=
  h.trans (.of_fields (channels_noteReports b t) (groups_noteReports b t) (noteReports_only b t).loader)

theorem SameSet.complete (h : SameSet s t) (p : Port) (k : Taken) (w : Word) (e : Lanes) : SameSet s (complete p k w e t) := by
  have hparity : SameSet s (reportParity p k e t) := by
    unfold reportParity
    split
    · split
      · exact (h.offer _ _).raise _ _
      · exact h
    · exact h
  have heffects : SameSet s (Machine.noteReports t (completionEffects k p e t)) := (hparity.exchangeStep k e).noteReports t
  unfold Machine.complete finishPort
  split
  · exact (heffects.setAccess p .idle).arriveIfRequested p
  · exact heffects.setAccess _ _

theorem SameSet.completeCycleless (h : SameSet s t) (p : Port) : SameSet s (completeCycleless p t) := by
  unfold Machine.completeCycleless
  split
  · split
    · exact h.complete _ _ _ _
    · exact h
  · exact h

theorem SameSet.reportLoadEnd (h : SameSet s t) (l : Load) (c : ResultCode) (d : Detail) :
    SameSet s (reportLoadEnd l c d t) := by
  have hresult : SameSet t { t with lastResult := { gen := l.gen, code := c, detail := d } } := .of_fields rfl rfl rfl
  exact ((((h.trans hresult).mark _).mark _).offerBoth _).raise _ _ |>.raise _ _

theorem SameSet.continueLoader (h : SameSet s t) : SameSet s (continueLoader t) := by
  refine h.trans (SameSet.mark ?_ _)
  split
  · exact .of_loader rfl rfl fun _ hl => nomatch hl
  · exact .of_loader rfl rfl fun _ hl => nomatch hl

/-- R122: a drain begins with a table set that validation has passed. -/
theorem SameSet.finishReading (h : SameSet s t) (l : Load) : SameSet s (finishReading l t) := by
  unfold Machine.finishReading
  split
  · exact (h.reportLoadEnd _ _ _).continueLoader
  · rename_i hvalid
    have hdrain : SameSet s { t with loader := .draining l } :=
      h.trans (.of_loader rfl rfl fun _ hl => ⟨fittedWords t.msz, by cases hl; exact hvalid⟩)
    exact hdrain.mark _

theorem SameSet.loaderReadDone (h : SameSet s t) (w : Word) (e : Lanes) : SameSet s (loaderReadDone w e t) := by
  have hread : ∀ l, SameSet s { t with loader := .reading l } := fun _ =>
    h.trans (.of_loader rfl rfl fun _ hl => nomatch hl)
  unfold Machine.loaderReadDone tableReadDone resumeReadDone
  split
  · split
    · split
      · exact (h.reportLoadEnd _ _ _).continueLoader
      · dsimp only
        split
        · exact hread _
        · split
          · exact h.finishReading _
          · exact hread _
    · dsimp only
      split
      · exact hread _
      · exact h.finishReading _
  · exact h

theorem SameSet.mirrorCycleDone (h : SameSet s t) : SameSet s (mirrorCycleDone t) := by
  unfold Machine.mirrorCycleDone
  split
  · split
    · exact h
    · unfold itemCompleted
      split
      · exact h.trans (.of_fields rfl rfl rfl)
      · exact h.trans (.of_fields rfl rfl rfl)
      · exact h.trans (.of_fields rfl rfl rfl)
      · exact h.trans (.of_fields rfl rfl rfl)
  · exact h

theorem SameSet.memoryCycleEnd (h : SameSet s t) : SameSet s (memoryCycleEnd t) := by
  unfold Machine.memoryCycleEnd
  split
  · exact h
  · rename_i c _
    have hended : SameSet s { t with cycle := none, mem := cycleMem t.mem c } := h.trans (.of_fields rfl rfl rfl)
    dsimp only
    split
    · split
      · exact hended.complete _ _ _ _
      · exact hended
    · exact hended.loaderReadDone _ _
    · exact hended.mirrorCycleDone

/-! ### The part state, and whole events -/

theorem SameSet.clockEdge (h : SameSet s t) : SameSet s (clockEdge t) := by
  unfold Machine.clockEdge
  split
  · split
    · exact h.trans (.of_fields rfl rfl rfl)
    · exact h.trans (.of_fields rfl rfl rfl)
  · exact h

theorem SameSet.startHoldover (h : SameSet s t) : SameSet s (startHoldover t) := by
  have habort : ∀ v n, SameSet v (abortPass v n) := by
    intro v n
    unfold abortPass
    split
    · exact .refl v
    · split
      · exact .refl v
      · exact ((SameSet.refl v).endPass n).offer _ _
  have hcancel : ∀ v g, SameSet v (cancelGather v g) := by
    intro v g
    unfold cancelGather
    split
    · exact (SameSet.refl v).endGather g
    · exact .refl v
  have habandon : ∀ v, SameSet v (abandonLoad v) := by
    intro v
    have hidle : SameSet v { v with loader := .idle, remembered := none } := .of_loader rfl rfl fun _ hl => nomatch hl
    unfold abandonLoad
    split
    · exact .refl v
    · exact (hidle.mark _).reportLoadEnd _ _ _
    · exact (hidle.mark _).reportLoadEnd _ _ _
  have hstate : SameSet s { t with partState := .holdover } := h.trans (.of_fields rfl rfl rfl)
  exact (((((hstate.mark _).offerBoth _).foldl habort indices).foldl hcancel indices).trans (habandon _)).takeHeld

theorem SameSet.powerFails (h : SameSet s t) : SameSet s (powerFails t) := by
  have hpin : SameSet s { t with pins := { t.pins with pfailN := false } } := h.trans (.of_fields rfl rfl rfl)
  unfold Machine.powerFails
  dsimp only
  split
  · exact hpin.startHoldover
  · exact hpin

theorem SameSet.leaveReset (h : SameSet s t) (m : BitVec 2) (c f : Bool) : SameSet s (leaveReset m c f t) := by
  have hstraps : SameSet s (sampleStraps m c f t) := h.trans (.of_fields rfl rfl rfl)
  refine SameSet.arriveIfRequested (SameSet.arriveIfRequested ?_ _) _
  split
  · exact hstraps.startHoldover
  · exact hstraps

theorem SameSet.ungranted {f : State → State} (h : SameSet s (f t)) : SameSet s (ungranted f t) := h.noteReports t

theorem SameSet.event {f : State → State} (h : SameSet s (f t)) : SameSet s (event f t) :=
  h.ungranted.trans (.of_fields rfl rfl rfl)

end SameSet
end Sys2Proof.Machine

/-! SUPPORT. A table set that passes validation (R117 to R119): its walks, its chains and its periods; the set that an install
brings; and the laws of the installed set (R30, R31, R64). -/
namespace Sys2Proof.Machine

/-! ### What validation has checked (R117) -/

section Validate
variable {l : Load}

theorem firstFailing_eq_none {is : List Nat} {fails : Nat → Bool} {code : ResultCode} {t : TableCode} :
    firstFailing is fails code t = none ↔ ∀ i ∈ is, fails i = false := by
  simp [firstFailing]

theorem Load.mem_groups {g : Nat} : g ∈ l.groups ↔ g < 24 ∧ (l.group g).valid = true := by
  simp [Load.groups, mem_indices]

theorem Load.mem_chans {n : Nat} : n ∈ l.chans ↔ n < 24 ∧ (l.chan n).valid = true := by
  simp [Load.chans, mem_indices]

/-- The checks of groups and chains, for a table set that passes validation. -/
theorem Load.checks_of_validate {fitted : Nat} (h : l.validate fitted = none) :
    (∀ g ∈ l.groups, groupFails (l.group g) = false) ∧ (∀ g ∈ l.groups, (l.walk g).isNone = false) ∧
      (∀ n ∈ l.chans, l.visited n = true) ∧ ∀ g ∈ l.groups, l.mixed g = false := by
  simp only [Load.validate, Option.orElse_eq_none, firstFailing_eq_none] at h
  obtain ⟨-, -, -, hgroup, hwalk, hvisit, hmixed, -⟩ := h
  exact ⟨hgroup, hwalk, fun n hn => by simpa using hvisit n hn, hmixed⟩

/-- R119: a walk that has not failed up to member `k`, and has not come to END before it, goes on as `WalksOn` says. -/
theorem walkChain_eq_some {g fuel k : Nat} {ms : List Nat}
    (hbefore : ∀ j, j < k → l.member g j < 24 ∧ (l.chan (l.member g j)).valid = true ∧
      (l.chan (l.member g j)).group = g ∧ (l.chan (l.member g j)).nextMember ≠ 31 ∧
      ∀ i, i < j → l.member g i ≠ l.member g j)
    (h : walkChain l g fuel (l.member g k) ((List.range k).map (l.member g)) = some ms) :
    ∃ n, l.walksTo g n = true ∧ ms = (List.range n).map (l.member g) := by
  induction fuel generalizing k with
  | zero => cases h
  | succ fuel ih =>
    have happend : (List.range k).map (l.member g) ++ [l.member g k] = (List.range (k + 1)).map (l.member g) := by
      simp [List.range_succ]
    unfold walkChain at h
    split at h
    swap
    · cases h
    rename_i hcond
    simp only [Bool.and_eq_true, beq_iff_eq, Bool.not_eq_true', List.contains_eq_mem, decide_eq_false_iff_not, List.mem_map,
      List.mem_range, not_exists, not_and] at hcond
    obtain ⟨⟨hvalid, hgroup⟩, hnew⟩ := hcond
    obtain ⟨hlt, hvalid⟩ : l.member g k < 24 ∧ (l.chan (l.member g k)).valid = true := by
      by_contra hno
      simp [Load.nextOf, hno] at hvalid
    rw [happend] at h
    split at h
    · rename_i hend
      cases h
      refine ⟨k + 1, decide_eq_true ⟨by omega, fun j hj => ?_⟩, rfl⟩
      rcases Nat.lt_succ_iff_lt_or_eq.1 hj with hj | rfl
      · obtain ⟨h1, h2, h3, h4, h5⟩ := hbefore j hj
        exact ⟨h1, h2, h3, ⟨fun e => absurd e h4, fun e => by omega⟩, h5⟩
      · exact ⟨hlt, hvalid, hgroup, ⟨fun _ => rfl, fun _ => hend⟩, hnew⟩
    · rename_i hon
      refine ih (k := k + 1) (fun j hj => ?_) h
      rcases Nat.lt_succ_iff_lt_or_eq.1 hj with hj | rfl
      · exact hbefore j hj
      · exact ⟨hlt, hvalid, hgroup, hon, hnew⟩

theorem Load.walk_eq_some {g : Nat} {ms : List Nat} (h : l.walk g = some ms) : g < 24 ∧ (l.group g).valid = true ∧
    ∃ n, l.walksTo g n = true ∧ ms = (List.range n).map (l.member g) := by
  unfold Load.walk at h
  split at h
  · rename_i hg
    exact ⟨hg.1, hg.2, walkChain_eq_some (k := 0) (fun j hj => absurd hj (Nat.not_lt_zero j)) h⟩
  · cases h

theorem Load.getElem?_chain {g n : Nat} (h : l.walksTo g n = true) (k : Nat) :
    (l.chain g)[k]? = if k < n then some (l.member g k) else none := by
  rw [Load.chain_of_walksTo h, List.getElem?_map]
  split
  · rename_i hk
    rw [List.getElem?_range hk, Option.map_some]
  · rename_i hk
    rw [List.getElem?_eq_none (by simpa using hk), Option.map_none]

/-- R30, R31: what the install of a table set needs of its chains. -/
structure Load.Chained (l : Load) : Prop where
  walks : ∀ g, g < 24 → (l.group g).valid = true → ∃ n, l.walksTo g n = true ∧
    ∀ k, k < n → (l.chan (l.member g k)).producer = (l.chan (l.group g).first).producer
  visits : ∀ n, n < 24 → (l.chan n).valid = true → (l.chan n).group < 24 ∧ (l.group (l.chan n).group).valid = true ∧
    n ∈ l.chain (l.chan n).group
  periods : ∀ g, g < 24 → (l.group g).valid = true → (l.group g).mode = some .timed → (l.group g).period ≠ 0

theorem Load.chained_of_validate {fitted : Nat} (h : l.validate fitted = none) : l.Chained := by
  obtain ⟨hgroup, hwalk, hvisit, hmixed⟩ := Load.checks_of_validate h
  refine ⟨fun g hg hvalid => ?_, fun n hn hvalid => ?_, fun g hg hvalid hmode hzero => ?_⟩
  · have hin : g ∈ l.groups := Load.mem_groups.2 ⟨hg, hvalid⟩
    obtain ⟨ms, hms⟩ : ∃ ms, l.walk g = some ms := by
      have := hwalk g hin
      exact Option.ne_none_iff_exists'.1 fun e => by simp [e] at this
    obtain ⟨-, -, n, hn, rfl⟩ := Load.walk_eq_some hms
    refine ⟨n, hn, fun k hk => ?_⟩
    have hsame := hmixed g hin
    simp only [Load.mixed, hms, List.any_map, List.any_eq_false, List.mem_range] at hsame
    simpa using hsame k hk
  · have hvis := hvisit n (Load.mem_chans.2 ⟨hn, hvalid⟩)
    unfold Load.visited at hvis
    split at hvis
    · rename_i ms hms
      obtain ⟨hg, hgvalid, k, hk, rfl⟩ := Load.walk_eq_some hms
      refine ⟨hg, hgvalid, ?_⟩
      rw [Load.chain_of_walksTo hk]
      simpa using hvis
    · cases hvis
  · have hok := hgroup g (Load.mem_groups.2 ⟨hg, hvalid⟩)
    simp [groupFails, hmode, hzero] at hok

end Validate

/-! ### The laws under a table set that is kept -/

section Kept
variable {s t : State}

theorem State.groupProducer_eq (s : State) (g : Nat) : s.groupProducer g =
    (((s.group? g).map (·.desc)).bind fun d => (s.descOf d.first).map (·.producer)).getD .A := by
  unfold State.groupProducer State.descOf
  cases s.group? g with
  | none => rfl
  | some gr => cases hc : s.channel? gr.desc.first <;> simp [hc]

theorem SameChains.groupProducer (h : SameChains s t) (g : Nat) : t.groupProducer g = s.groupProducer g := by
  rw [State.groupProducer_eq, State.groupProducer_eq, h.channels, h.groups]

/-- A channel of one of two such states is in the other with the same descriptor. -/
theorem SameChains.channel (h : SameChains s t) {n : Nat} {c : Channel} (hc : s.channel? n = some c) :
    ∃ d, t.channel? n = some d ∧ d.desc = c.desc := by
  have hdesc := congrFun h.channels n
  rw [State.descOf, State.descOf, hc] at hdesc
  exact Option.map_eq_some_iff.1 hdesc

theorem SameChains.group (h : SameChains s t) {g : Nat} {gr : Group} (hg : s.group? g = some gr) :
    ∃ k, t.group? g = some k ∧ k.desc = gr.desc := by
  have hdesc := h.groups g
  rw [hg] at hdesc
  exact Option.map_eq_some_iff.1 hdesc

theorem SameChains.symm (h : SameChains s t) : SameChains t s := ⟨h.channels.symm, fun g => (h.groups g).symm⟩

theorem SameSet.validated (h : SameSet s t) (hs : ∀ l, s.loader = .draining l → ∃ fitted, l.validate fitted = none)
    (l : Load) (hl : t.loader = .draining l) : ∃ fitted, l.validate fitted = none := (h.loader l hl).elim (hs l) id

theorem ChainLaw.sameSet (hlaw : ChainLaw s) (h : SameSet s t) : ChainLaw t := by
  obtain ⟨hgroups, hchans, hdrain⟩ := hlaw
  refine ⟨fun g gr hg => ?_, fun n c hc => ?_, h.validated hdrain⟩
  · obtain ⟨gr', hg', hdesc⟩ := h.symm.group hg
    obtain ⟨hfirst, hnext, hnodup, hall⟩ := hgroups g gr' hg'
    rw [h.members, ← hdesc]
    refine ⟨hfirst, fun k m hm => ?_, hnodup, fun m hm => ?_⟩
    · obtain ⟨c, hc, hk⟩ := hnext k m hm
      obtain ⟨d, hd, hdd⟩ := h.channel hc
      exact ⟨d, hd, hdd ▸ hk⟩
    · obtain ⟨c, hc, hname, hprod⟩ := hall m hm
      obtain ⟨d, hd, hdd⟩ := h.channel hc
      exact ⟨d, hd, hdd ▸ hname, by rw [hdd, h.groupProducer]; exact hprod⟩
  · obtain ⟨c', hc', hdesc⟩ := h.symm.channel hc
    rw [h.members, ← hdesc]
    exact hchans n c' hc'

theorem FrameLaw.sameSet (hlaw : FrameLaw s) (h : SameSet s t) : FrameLaw t := by
  obtain ⟨hgroups, hdrain⟩ := hlaw
  refine ⟨fun g gr hg => ?_, h.validated hdrain⟩
  obtain ⟨gr', hg', hdesc⟩ := h.symm.group hg
  exact hdesc ▸ hgroups g gr' hg'

end Kept

/-! ### The set that an install brings -/

section Installed
variable {s : State} {l : Load}

/-- R124, R125: after the install each place holds the descriptor read for it, where that is valid. -/
theorem descOf_installed (n : Nat) :
    (installed l s).descOf n = if n < 24 ∧ (l.chan n).valid = true then some (l.chan n) else none := by
  unfold State.descOf
  by_cases hn : n < 24
  · rw [channel?_installed hn]
    have hsome := isSome_newChannel (l := l) (s := s) (n := n)
    cases hnew : newChannel l s (endOldSet l s) n with
    | none =>
      rw [hnew] at hsome
      simp [← hsome]
    | some c =>
      rw [hnew] at hsome
      have hdesc : c.desc = l.chan n := by
        unfold newChannel at hnew
        split at hnew
        · obtain ⟨d, -, rfl⟩ := Option.map_eq_some_iff.1 hnew
          rfl
        · split at hnew
          · cases hnew; rfl
          · cases hnew
      simp [hn, ← hsome, hdesc]
  · have hnone : (installed l s).channel? n = none :=
      Option.eq_none_iff_forall_ne_some.2 fun c hc => hn (State.channel?_lt hc)
    simp [hn, hnone]

/-- R127, R128: and each group place. -/
theorem groupDesc_installed (g : Nat) : ((installed l s).group? g).map (·.desc) =
    if g < 24 ∧ (l.group g).valid = true then some (l.group g) else none := by
  by_cases hg : g < 24
  · rw [group?_installed hg]
    have hsome := isSome_newGroup (l := l) (s := s) (n := g)
    cases hnew : newGroup l s (endOldSet l s) g with
    | none =>
      rw [hnew] at hsome
      simp [← hsome]
    | some gr =>
      rw [hnew] at hsome
      have hdesc : gr.desc = l.group g := by
        unfold newGroup at hnew
        split at hnew
        · obtain ⟨k, -, rfl⟩ := Option.map_eq_some_iff.1 hnew
          rfl
        · split at hnew
          · cases hnew; rfl
          · cases hnew
      simp [hg, ← hsome, hdesc]
  · have hnone : (installed l s).group? g = none :=
      Option.eq_none_iff_forall_ne_some.2 fun gr hgr => hg (State.group?_lt hgr)
    simp [hg, hnone]

theorem channel_installed {n : Nat} (hn : n < 24) (hvalid : (l.chan n).valid = true) :
    ∃ c, (installed l s).channel? n = some c ∧ c.desc = l.chan n := by
  have hdesc := descOf_installed (l := l) (s := s) n
  rw [if_pos ⟨hn, hvalid⟩] at hdesc
  exact Option.map_eq_some_iff.1 hdesc

theorem desc_of_channel_installed {n : Nat} {c : Channel} (hc : (installed l s).channel? n = some c) :
    n < 24 ∧ (l.chan n).valid = true ∧ c.desc = l.chan n := by
  have hdesc := descOf_installed (l := l) (s := s) n
  rw [State.descOf, hc] at hdesc
  split at hdesc
  · rename_i h
    exact ⟨h.1, h.2, Option.some.inj hdesc⟩
  · cases hdesc

theorem desc_of_group_installed {g : Nat} {gr : Group} (hg : (installed l s).group? g = some gr) :
    g < 24 ∧ (l.group g).valid = true ∧ gr.desc = l.group g := by
  have hdesc := groupDesc_installed (l := l) (s := s) g
  rw [hg] at hdesc
  split at hdesc
  · rename_i h
    exact ⟨h.1, h.2, Option.some.inj hdesc⟩
  · cases hdesc

/-- R31: the chains of the new set are those of the table set read. -/
theorem members_installed {g : Nat} (hg : g < 24) (hvalid : (l.group g).valid = true) :
    (installed l s).members g = l.chain g := by
  have hnext : (installed l s).nextOf = l.nextOf := by
    rw [State.nextOf_eq]
    funext n
    rw [descOf_installed, Load.nextOf]
    split <;> rfl
  have hdesc := groupDesc_installed (l := l) (s := s) g
  rw [if_pos ⟨hg, hvalid⟩] at hdesc
  obtain ⟨gr, hgr, hd⟩ := Option.map_eq_some_iff.1 hdesc
  simp only [State.members, hgr, hd, hnext, Load.chain]

theorem groupProducer_installed {g : Nat} (hg : g < 24) (hvalid : (l.group g).valid = true)
    (hfirst : (l.group g).first < 24 ∧ (l.chan (l.group g).first).valid = true) :
    (installed l s).groupProducer g = (l.chan (l.group g).first).producer := by
  rw [State.groupProducer_eq, groupDesc_installed, if_pos ⟨hg, hvalid⟩, Option.bind_some, descOf_installed, if_pos hfirst]
  rfl

/-- R113: after an install the Loader drains nothing. -/
theorem loader_installed (l' : Load) : (installed l s).loader ≠ .draining l' := by
  unfold installed continueLoader
  split <;> exact fun h => nomatch h

theorem chainLaw_installed (hl : l.Chained) : ChainLaw (installed l s) := by
  refine ⟨fun g gr hgr => ?_, fun n c hc => ?_, fun l' h => absurd h (loader_installed l')⟩
  · obtain ⟨hg, hvalid, hdesc⟩ := desc_of_group_installed hgr
    obtain ⟨n, hn, hprod⟩ := hl.walks g hg hvalid
    obtain ⟨hpos, hwalk⟩ := of_decide_eq_true hn
    obtain ⟨hfirst, hfirstValid, -⟩ := hwalk 0 hpos
    rw [members_installed hg hvalid, groupProducer_installed hg hvalid ⟨hfirst, hfirstValid⟩, hdesc]
    simp only [Load.getElem?_chain hn]
    rw [Load.chain_of_walksTo hn]
    refine ⟨if_pos hpos, fun k m hm => ?_, ?_, fun m hm => ?_⟩
    · obtain ⟨hk, rfl⟩ : k < n ∧ l.member g k = m := by simpa using hm
      obtain ⟨hlt, hcvalid, -, hend, -⟩ := hwalk k hk
      obtain ⟨c, hc, hcd⟩ := channel_installed (s := s) hlt hcvalid
      refine ⟨c, hc, ?_⟩
      rw [hcd]
      by_cases hlast : k + 1 = n
      · simp [hend.2 hlast, hlast]
      · rw [if_neg fun e => hlast (hend.1 e)]
        simp [Load.member, show k + 1 < n by omega]
    · refine List.Nodup.map_on (fun i hi j hj hij => ?_) List.nodup_range
      rcases Nat.lt_trichotomy i j with h | h | h
      · exact absurd hij ((hwalk j (List.mem_range.1 hj)).2.2.2.2 i h)
      · exact h
      · exact absurd hij.symm ((hwalk i (List.mem_range.1 hi)).2.2.2.2 j h)
    · obtain ⟨k, hk, rfl⟩ := List.mem_map.1 hm
      obtain ⟨hlt, hcvalid, hgroup, -⟩ := hwalk k (List.mem_range.1 hk)
      obtain ⟨c, hc, hcd⟩ := channel_installed (s := s) hlt hcvalid
      exact ⟨c, hc, by rw [hcd, hgroup], by rw [hcd, hprod k (List.mem_range.1 hk)]⟩
  · obtain ⟨hn, hvalid, hdesc⟩ := desc_of_channel_installed hc
    obtain ⟨hg, hgvalid, hmem⟩ := hl.visits n hn hvalid
    rw [hdesc, members_installed hg hgvalid]
    exact hmem

theorem frameLaw_installed (hl : l.Chained) : FrameLaw (installed l s) := by
  refine ⟨fun g gr hgr hmode => ?_, fun l' h => absurd h (loader_installed l')⟩
  obtain ⟨hg, hvalid, hdesc⟩ := desc_of_group_installed hgr
  rw [hdesc] at hmode ⊢
  exact hl.periods g hg hvalid hmode

end Installed

/-! ### Laws of the installed set -/

/-- A law of the installed set: it holds of a drain only with a table set that passes validation, it holds after the install
of such a set and in reset, and it is kept where the set is kept. -/
structure SetLaw (I : State → Prop) : Prop where
  validated : ∀ s l, I s → s.loader = .draining l → ∃ fitted, l.validate fitted = none
  installed : ∀ s l, l.Chained → I (installed l s)
  reset : ∀ s, I (enterReset s)
  kept : ∀ s t, I s → SameSet s t → I t

theorem SetLaw.install {I : State → Prop} (h : SetLaw I) {s : State} (hs : I s) : I (install s) := by
  unfold Machine.install
  split
  · rename_i l hl
    split
    · obtain ⟨fitted, hvalid⟩ := h.validated s l hs hl
      exact h.kept _ _ (h.installed s l (Load.chained_of_validate hvalid)) (SameSet.refl _).takeHeld
    · exact hs
  · exact hs

/-- Every step keeps the installed set but an install, which brings one that passed validation, and a fall of RST_N. -/
theorem SetLaw.step {I : State → Prop} (h : SetLaw I) {s t : State} (hs : I s) (hst : step s = .next t) : I t := by
  have hown : ∀ e u, I u → I (ownEvent e u) := by
    intro e u hu
    by_cases he : e = .install
    · subst he
      exact h.install hu
    · exact h.kept _ _ hu ((SameSet.refl u).ownEvent he)
  have hkeep : ∀ (f : State → State) u, (SameSet u u → SameSet u (f u)) → I u → I (event f u) := fun f u hf hu =>
    h.kept _ _ hu (hf (.refl u)).event
  exact step_keeps I (fun u _ hu => h.kept u _ hu (.of_fields rfl rfl rfl))
    (fun e u _ hu => h.kept _ _ (hown e u hu) (SameSet.refl _).event)
    (fun p d u => hkeep _ u fun k => k.present p d) (fun p u => hkeep _ u fun k => k.dropReq p)
    (fun u => hkeep _ u SameSet.memoryCycleEnd) (fun p u => hkeep _ u fun k => k.completeCycleless p)
    (fun u => hkeep _ u SameSet.clockEdge) (fun u => hkeep _ u SameSet.powerFails)
    (fun u hu => h.kept u _ hu (SameSet.refl u).powerFails.ungranted)
    (fun u hu => by
      unfold resetFalls
      split
      · exact h.reset u
      · exact hu)
    (fun m c f u _ => hkeep _ u fun k => k.leaveReset m c f) hs hst

theorem channel?_enterReset (s : State) (n : Nat) : (enterReset s).channel? n = none := channel?_reset n

theorem group?_enterReset (s : State) (g : Nat) : (enterReset s).group? g = none := group?_reset g

theorem setLaw_chainLaw : SetLaw ChainLaw where
  validated _ l hs := hs.2.2 l
  installed _ _ := chainLaw_installed
  reset s := ⟨fun g gr h => by simp [group?_enterReset] at h, fun n c h => by simp [channel?_enterReset] at h,
    fun _ h => nomatch h⟩
  kept _ _ := ChainLaw.sameSet

theorem setLaw_frameLaw : SetLaw FrameLaw where
  validated _ l hs := hs.2 l
  installed _ _ := frameLaw_installed
  reset s := ⟨fun g gr h => by simp [group?_enterReset] at h, fun _ h => nomatch h⟩
  kept _ _ := FrameLaw.sameSet

/-- Settles O58: both are laws of the installed set. -/
theorem everyStepKeepsTheChainLaw : Obligations.EveryStepKeepsTheChainLaw := fun _ _ hst =>
  ⟨fun hs => setLaw_chainLaw.step hs hst, fun hs => setLaw_frameLaw.step hs hst⟩

end Sys2Proof.Machine

/-! SUPPORT. The part's own events that publish the pending members of a group (R37, R41): what the event tells, and the
statements. -/
namespace Sys2Proof.Machine

/-! ### An event of the part's own -/

/-- An event of the part's own that is due. -/
theorem exec_own {s : State} {i : Instr} {due : Bool} {f : State → State}
    (hi : exec i s = .next (dueEvent due f s)) (hdue : due = true) : exec i s = .next (grant (noteReports s (f s))) := by
  rw [hi, hdue]
  rfl

/-- What an event of the exchange unit that tells port `x` alone leaves, after the marks of the report words. -/
theorem noteReports_of_tells {s e : State} {x : Port} {rs : List Record} {c : BitVec 12} {is : List MirrorItem}
    (ho : OnlyExchange s e) (ht : Tells s e (onlyTo x [] rs) (onlyTo x 0 c) is) :
    noteReports s e = { s with
      channels := (noteReports s e).channels
      groups := (noteReports s e).groups
      journals := s.journals.set x (offers s.clock (s.journals.get x) rs)
      attention := s.attention.modify x fun b => b.told c s.clock (s.journals.get x) rs
      mirror := (noteReports s e).mirror } ∧
    Marks s (noteReports s e) (is ++ offersMark s.clock x (s.journals.get x) rs ++ changedReports s (noteReports s e)) := by
  obtain ⟨hj, hatt, hmarks⟩ := ht.to_one
  refine ⟨?_, ?_⟩
  · have heq := ho.eq
    rw [hj, hatt] at heq
    rw [channels_noteReports, groups_noteReports]
    exact (noteReports_eq s e).trans (congrArg (fun z : State => { z with mirror := (noteReports s e).mirror }) heq)
  · rw [changedReports_noteReports]
    exact hmarks.trans (marks_noteReports s e)

/-! ### The publication of a group's pending members (R37, R41) -/

theorem groups_publishMembers (g : Nat) (s : State) : (publishMembers g s).groups = s.groups :=
  foldl_field State.groups _ groups_publishPending _ s

/-- R20, R30: the PUBLISHED records of a group go to its consumer. -/
theorem ChainLaw.groupRecords_eq_nil {s : State} (hlaw : ChainLaw s) {g : Nat} {gr : Group} (hg : s.group? g = some gr)
    {p : Port} (hp : p ≠ s.groupConsumer g) : groupRecords s g p = [] := by
  obtain ⟨-, -, -, hprod⟩ := hlaw.1 g gr hg
  rw [groupRecords_eq]
  refine List.filterMap_eq_nil_iff.2 fun m hm => memberRecord_eq_none fun c hc => ?_
  obtain ⟨d, hd, -, hpd⟩ := hprod m hm
  cases hc.symm.trans hd
  rw [ChanDesc.consumer, hpd]
  exact Ne.symm hp

/-- R37, R41: each pending member is published as it stood, and the consumer alone is told. -/
theorem ChainLaw.publishMembers {s : State} (hlaw : ChainLaw s) {g : Nat} {gr : Group} (hg : s.group? g = some gr) :
    (∀ m, (publishMembers g s).channel? m =
      if m ∈ s.members g then (s.channel? m).map fun c => c.pendPublished s.clock else s.channel? m) ∧
    Tells s (publishMembers g s) (onlyTo (s.groupConsumer g) [] (groupRecords s g (s.groupConsumer g)))
      (onlyTo (s.groupConsumer g) 0 (causeIf .publish (!(groupRecords s g (s.groupConsumer g)).isEmpty)))
      ((pendingMembers s g).map .chanBlock) := by
  obtain ⟨-, -, hnodup, -⟩ := hlaw.1 g gr hg
  obtain ⟨hch, htell⟩ := publishPending_fold (s.members g) hnodup s
  have honly : ∀ p, onlyTo (s.groupConsumer g) [] (groupRecords s g (s.groupConsumer g)) p = groupRecords s g p := by
    intro p
    unfold onlyTo
    split
    · rename_i h; rw [h]
    · rename_i h; rw [hlaw.groupRecords_eq_nil hg h]
  refine ⟨hch, htell.congr honly (fun p => ?_) fun _ => Iff.rfl⟩
  change _ = causeIf .publish (!(groupRecords s g p).isEmpty)
  by_cases h : p = s.groupConsumer g
  · simp [onlyTo, h]
  · simp [onlyTo, h, hlaw.groupRecords_eq_nil hg h, causeIf]

theorem isReached_of_eq {now : Word} {dl : Deadline} (h : now - dl.start = dl.limit.setWidth 32) :
    isReached (some dl) now = true := by
  simp [isReached, Deadline.reached, h]

/-- Settles O43: the pending members are published, then the next frame time advances. -/
theorem aFrameTickPublishesThePendingMembers : Obligations.AFrameTickPublishesThePendingMembers := by
  intro s g gr x j rs hlaw hrun hg hmode hnext
  obtain ⟨hch, htell⟩ := hlaw.publishMembers hg
  have hexec : exec (.frameTick g) s = .next (grant (noteReports s (frameTick g s))) :=
    exec_own (due := frameDue s g) rfl (by simp [frameDue, hrun, hg, hmode, hnext])
  have htick : Tells s (frameTick g s) (onlyTo x [] rs) (onlyTo x 0 (causeIf .publish (!rs.isEmpty)))
      (.groupBlock g :: (pendingMembers s g).map .chanBlock) :=
    ((htell.trans (tells_modGroup _ g _)).trans (tells_mark _ (.groupBlock g))).congr (fun p => by simp [rs, x])
      (fun p => by simp [rs, x]) (fun i => by simp [or_comm])
  have hgroup : ∀ h, (noteReports s (frameTick g s)).group? h =
      if h = g then some { gr with nextFrame := some (s.clock + gr.desc.period.setWidth 32) } else s.group? h := by
    intro h
    rw [group?_congr (groups_noteReports _ _), frameTick, State.mark_group_at, State.group?_modGroup,
      group?_congr (groups_publishMembers g s), group?_congr (groups_publishMembers g s), hg, Option.map_some, hnext]
    rfl
  obtain ⟨hw, hmarks⟩ := noteReports_of_tells (frameTick_only g s) htick
  exact ⟨_, hexec, (hgroup g).trans (if_pos rfl), fun h hne => (hgroup h).trans (if_neg hne),
    fun m => (channel?_congr (channels_noteReports _ _) m).trans (hch m), hw, hmarks⟩

/-- Settles O42: the pending members are published, GROUP_PARTIAL follows to the same port, and the gather ends. -/
theorem aGatherDeadlinePublishesThePendingMembers : Obligations.AGatherDeadlinePublishesThePendingMembers := by
  intro s g gr q dl x j rs hlaw hg hgather hdl hreached
  obtain ⟨hch, htell⟩ := hlaw.publishMembers hg
  have hexec : exec (.partialPublication g) s = .next (grant (noteReports s (partialPublication g s))) :=
    exec_own (due := gatherDue s g) rfl (by simp [gatherDue, hg, hgather, hdl, isReached_of_eq hreached])
  have hstep : partialPublication g s = endGather g ((publishMembers g s).offer x
      (mkRecord .groupPartial g none 0 (channelMask (pendingMembers s g)) q.start s.clock)) := by
    simp only [partialPublication, hg, Option.bind_some, hgather]
    rfl
  have htells : Tells s (partialPublication g s) (onlyTo x [] rs)
      (onlyTo x 0 (causeIf .publish (!(groupRecords s g x).isEmpty)))
      (.groupBlock g :: (pendingMembers s g).map .chanBlock) := by
    rw [hstep]
    exact (((htell.trans (tells_offer _ x _)).trans (tells_modGroup _ g _)).trans (tells_mark _ (.groupBlock g))).congr
      (fun p => by simp [x, rs, onlyTo_append]) (fun p => by simp [x]) (fun i => by simp [or_comm])
  have hgroup : ∀ h, (noteReports s (partialPublication g s)).group? h =
      if h = g then some { gr with gather := none } else s.group? h := by
    intro h
    rw [group?_congr (groups_noteReports _ _), hstep, endGather, State.mark_group_at, State.group?_modGroup,
      State.offer_group_at, State.offer_group_at, group?_congr (groups_publishMembers g s),
      group?_congr (groups_publishMembers g s), hg]
    rfl
  obtain ⟨hw, hmarks⟩ := noteReports_of_tells (partialPublication_only g s) htells
  refine ⟨_, hexec, (hgroup g).trans (if_pos rfl), fun h hne => (hgroup h).trans (if_neg hne), fun m => ?_, hw, hmarks⟩
  rw [channel?_congr (channels_noteReports _ _), hstep, channel?_congr (channels_endGather g _), State.offer_channel_at, hch]

end Sys2Proof.Machine

/-! SUPPORT. Read pins (R44 to R50): what the opening and the end of a pin do to the members of the group, and which blocks
they mark; the hold deadline. -/
namespace Sys2Proof.Machine

/-! ### A visit of each member -/

/-- A channel of which `P` holds is installed at place `n`. -/
def State.channelIs (s : State) (P : Channel → Bool) (n : Nat) : Bool :=
  match s.channel? n with
  | some c => P c
  | none => false

theorem State.channelIs_eq (s : State) (P : Channel → Bool) (n : Nat) : s.channelIs P n = (s.channel? n).any P := by
  unfold State.channelIs
  cases s.channel? n <;> rfl

/-- What a fold over places does, where each turn changes the channel at its own place by `F` and marks that channel's block
if it is one of those of which `P` holds; a place visited twice is settled by its first visit. -/
theorem visit_fold {f : State → Nat → State} {F : Channel → Channel} {P : Channel → Bool}
    (hch : ∀ s n m, (f s n).channel? m = if m = n then (s.channel? n).map F else s.channel? m)
    (hmk : ∀ s n, Marks s (f s n) (if s.channelIs P n then [.chanBlock n] else []))
    (hF : ∀ c, F (F c) = F c) (hP : ∀ c, P (F c) = false) (ms : List Nat) (s : State) :
    (∀ m, (ms.foldl f s).channel? m = if m ∈ ms then (s.channel? m).map F else s.channel? m) ∧
    Marks s (ms.foldl f s) ((ms.filter (s.channelIs P)).map .chanBlock) := by
  induction ms generalizing s with
  | nil => exact ⟨fun m => by simp, Marks.refl s⟩
  | cons n rest ih =>
    obtain ⟨hrest, hmarks⟩ := ih (f s n)
    rw [List.foldl_cons]
    refine ⟨fun m => ?_, ((hmk s n).trans hmarks).congr fun i => ?_⟩
    · rw [hrest, hch]
      by_cases hm : m = n
      · subst hm
        by_cases hr : m ∈ rest <;> simp [hr, Function.comp_def, hF]
      · simp [hm]
    · have hany : ∀ m, (f s n).channelIs P m = (decide (m ≠ n) && s.channelIs P m) := by
        intro m
        rw [State.channelIs_eq, State.channelIs_eq, hch]
        by_cases hm : m = n
        · subst hm
          cases s.channel? m <;> simp [hP]
        · simp [hm]
      have hfirst : i ∈ (if s.channelIs P n then [MirrorItem.chanBlock n] else []) ↔
          s.channelIs P n = true ∧ .chanBlock n = i := by
        split
        · rename_i h; simp [h, eq_comm]
        · rename_i h; simp [h]
      simp only [hany, List.mem_append, hfirst, List.mem_map, List.mem_filter, List.mem_cons, Bool.and_eq_true,
        decide_eq_true_eq]
      constructor
      · rintro (⟨hn, rfl⟩ | ⟨m, ⟨hm, -, hp⟩, rfl⟩)
        · exact ⟨n, ⟨.inl rfl, hn⟩, rfl⟩
        · exact ⟨m, ⟨.inr hm, hp⟩, rfl⟩
      · rintro ⟨m, ⟨hm, hp⟩, rfl⟩
        by_cases hmn : m = n
        · subst hmn
          exact .inl ⟨hp, rfl⟩
        · exact .inr ⟨m, ⟨hm.resolve_left hmn, hmn, hp⟩, rfl⟩

/-! ### The end of a pin (R48, R50) -/

theorem marks_unpinMember (s : State) (n : Nat) :
    Marks s (unpinMember s n) (if s.channelIs (·.held.isSome) n then [.chanBlock n] else []) := by
  unfold unpinMember State.channelIs
  cases s.channel? n with
  | none => exact Marks.refl s
  | some c =>
    dsimp only
    split
    · exact (marks_modChannel s n _).trans (marks_mark _ (.chanBlock n))
    · exact Marks.refl s

/-- The members of group `g` that have a held buffer. -/
def heldMembers (s : State) (g : Nat) : List Nat := (s.members g).filter (s.channelIs (·.held.isSome))

/-- R48, R50: the end of a pin tells no one. -/
theorem tells_dropPin (g : Nat) (s : State) : Tells s (dropPin g s) (fun _ => []) (fun _ => 0)
    (.groupBlock g :: (heldMembers s g).map .chanBlock) := by
  have hkeep : ∀ t n, (unpinMember t n).journals = t.journals ∧ (unpinMember t n).attention = t.attention := by
    intro t n
    unfold unpinMember
    split
    · split <;> exact ⟨rfl, rfl⟩
    · exact ⟨rfl, rfl⟩
  obtain ⟨-, hmarks⟩ := visit_fold channel?_unpinMember marks_unpinMember (fun _ => rfl) (fun _ => rfl) (s.members g)
    (s.modGroup g fun gr => { gr with pin := none })
  refine .of_marks (dropPin_only g s).clock ?_ ?_ ?_
  · exact foldl_field State.journals _ (fun t n => (hkeep t n).1) (s.members g) _
  · exact foldl_field State.attention _ (fun t n => (hkeep t n).2) (s.members g) _
  · exact (((marks_modGroup s g _).trans hmarks).trans (marks_mark _ (.groupBlock g))).congr fun i => by
      rw [heldMembers]
      simp [State.channelIs, or_comm]

/-- Settles O41: the pin is dropped, then its record and PIN_FAULT go to the consumer. -/
theorem aHoldDeadlineReleasesThePin : Obligations.AHoldDeadlineReleasesThePin := by
  intro s g gr pin dl x j mask rs hg hpin hdl hreached
  have hexec : exec (.pinRelease g) s = .next (grant (noteReports s (releasePin g false s))) :=
    exec_own (due := holdDue s g) rfl (by simp [holdDue, hg, hpin, hdl, isReached_of_eq hreached])
  have hstep : releasePin g false s = ((dropPin g s).offer x
      (pinExpiredRecord g false pin (s.freedMask g) s.clock)).raise x .pinFault := by
    simp only [releasePin, hg, Option.bind_some, hpin]
    rfl
  have hrec : pinExpiredRecord g false pin (s.freedMask g) s.clock =
      mkRecord .pinExpired g none (flagBit 0 true ||| flagBit 2 pin.tainted) mask pin.openTime s.clock := by
    have hflags : flagBit 0 (!false) ||| flagBit 1 false ||| flagBit 2 pin.tainted =
        flagBit 0 true ||| flagBit 2 pin.tainted := by
      cases pin.tainted <;> rfl
    rw [pinExpiredRecord, hflags]
    rfl
  have htells : Tells s (releasePin g false s) (onlyTo x [] rs) (onlyTo x 0 Cause.pinFault.bit)
      (.groupBlock g :: (heldMembers s g).map .chanBlock) := by
    rw [hstep, hrec]
    exact (((tells_dropPin g s).trans (tells_offer _ x _)).trans (tells_raise _ x .pinFault)).congr
      (fun p => by simp [rs]) (fun p => by simp) (fun i => by simp)
  have hgroup : ∀ h, (noteReports s (releasePin g false s)).group? h =
      if h = g then some { gr with pin := none } else s.group? h := by
    intro h
    rw [group?_congr (groups_noteReports _ _), hstep, State.raise_group_at, State.offer_group_at, group?_dropPin, hg]
    rfl
  obtain ⟨hw, hmarks⟩ := noteReports_of_tells (releasePin_only g false s) htells
  refine ⟨_, hexec, (hgroup g).trans (if_pos rfl), fun h hne => (hgroup h).trans (if_neg hne), fun m => ?_, hw, hmarks⟩
  rw [channel?_congr (channels_noteReports _ _), hstep, State.raise_channel_at, State.offer_channel_at, channel?_dropPin]

end Sys2Proof.Machine

/-! SUPPORT. Consumer reads that are taken (R44, R46, R47): the opening of a pin, the steering, and the hold deadline that a
closing read cancels. -/
namespace Sys2Proof.Machine

/-! ### The opening of a pin (R44) -/

theorem channel?_pinMember (s : State) (n m : Nat) : (pinMember s n).channel? m =
    if m = n then (s.channel? n).map Channel.pinned else s.channel? m := by
  unfold pinMember
  cases hc : s.channel? n with
  | none => by_cases h : m = n <;> simp [h, hc]
  | some c =>
    dsimp only
    split
    · rw [State.channel?_modChannel, hc]
    · rw [State.mark_channel_at, State.channel?_modChannel, hc]

theorem marks_pinMember (s : State) (n : Nat) :
    Marks s (pinMember s n) (if s.channelIs (fun k => k.held != k.live) n then [.chanBlock n] else []) := by
  unfold pinMember State.channelIs
  cases s.channel? n with
  | none => exact Marks.refl s
  | some c =>
    have hmod := marks_modChannel s n Channel.pinned
    dsimp only
    by_cases h : c.held = c.live
    · simpa [h] using hmod
    · simpa [h] using hmod.trans (marks_mark _ (.chanBlock n))

theorem pinMember_keeps (s : State) (n : Nat) : (pinMember s n).groups = s.groups ∧
    (pinMember s n).journals = s.journals ∧ (pinMember s n).attention = s.attention := by
  unfold pinMember
  split
  · dsimp only
    split <;> exact ⟨rfl, rfl, rfl⟩
  · exact ⟨rfl, rfl, rfl⟩

/-- R44: the pin that opens at `now`. -/
def Group.pinOpened (gr : Group) (now : Word) : Group :=
  { gr with pin := some { openTime := now, deadline := formDeadline now gr.desc.holdLimit, tainted := false } }

/-- R44: what the opening of a pin changes. -/
theorem openPin_spec {s : State} {g : Nat} {gr : Group} (hg : s.group? g = some gr) (hpin : gr.pin = none) :
    (∀ m, (openPin g s).channel? m =
      if m ∈ s.members g then (s.channel? m).map Channel.pinned else s.channel? m) ∧
    (∀ h, (openPin g s).group? h = if h = g then some (gr.pinOpened s.clock) else s.group? h) ∧
    openPin g s = { s with
      channels := (openPin g s).channels
      groups := (openPin g s).groups
      mirror := (openPin g s).mirror } ∧
    Marks s (openPin g s)
      (.groupBlock g :: ((s.members g).filter (s.channelIs fun k => k.held != k.live)).map .chanBlock) := by
  let s1 := (s.modGroup g fun gr => gr.pinOpened s.clock).mark (.groupBlock g)
  have hopen : openPin g s = (s.members g).foldl pinMember s1 := by
    unfold openPin
    simp only [hg, hpin, Option.isNone_none, if_true]
    rfl
  obtain ⟨hch, hmarks⟩ := visit_fold channel?_pinMember marks_pinMember (fun _ => rfl) (fun _ => bne_self_eq_false _)
    (s.members g) s1
  have hkeep : ∀ {α : Type} (F : State → α) (_ : ∀ t n, F (pinMember t n) = F t), F (openPin g s) = F s1 :=
    fun F hF => hopen ▸ foldl_field F pinMember hF _ s1
  refine ⟨fun m => by rw [hopen]; exact hch m, fun h => ?_, ?_, ?_⟩
  · rw [group?_congr (hkeep State.groups fun t n => (pinMember_keeps t n).1), State.mark_group_at,
      State.group?_modGroup, hg]
    rfl
  · have heq := (openPin_only g s).eq
    rw [hkeep State.journals fun t n => (pinMember_keeps t n).2.1,
      hkeep State.attention fun t n => (pinMember_keeps t n).2.2] at heq
    exact heq
  · rw [hopen]
    exact (((marks_modGroup s g _).trans (marks_mark _ (.groupBlock g))).trans hmarks).congr fun i => by
      simp [s1, State.channelIs]

/-! ### The take of a consumer read (R46, R47) -/

/-- R47: the groups after the hold deadline of group `g`'s pin is cancelled, where `closing` holds. -/
theorem group?_cancelHoldDeadline (s : State) (g : Nat) (closing : Bool) (h : Nat) :
    (if closing then cancelHoldDeadline g s else s).group? h =
      if h = g then (s.group? g).map fun gr =>
        { gr with pin := gr.pin.map fun p => { p with deadline := if closing then none else p.deadline } }
      else s.group? h := by
  cases closing
  · by_cases hh : h = g
    · subst hh
      cases hg : s.group? h with
      | none => simp [hg]
      | some gr => simp [hg]
    · simp [hh]
  · exact State.group?_modGroup s g h _

/-- R46, R47: a consumer read, taken from the state `s1` in which its group's pin stands open. -/
theorem takeConsumerRead_eq {s s1 : State} {n off : Nat} {c c1 : Channel} (hc : s.channel? n = some c)
    (hs : openPin c.desc.group s = s1) (hc1 : s1.channel? n = some c1) :
    let closing := s.isClosingMember c.desc.group n && off + 1 == c.desc.len
    takeConsumerRead n off s =
      ({ s1 with groups := (if closing then cancelHoldDeadline c.desc.group s1 else s1).groups },
        { ch := n
          side := .consumer
          steer := if c1.blank then .nowhere
            else match c1.held with
              | some b => .buffer b (c.desc.base b + BitVec.ofNat 17 off)
              | none => .nowhere
          passSeq := none
          closing := closing }) := by
  intro closing
  have hset : SameSet s s1 := hs ▸ (SameSet.refl s).openPin _
  have hdesc : c1.desc = c.desc := by
    obtain ⟨d, hd, hdd⟩ := hset.channel hc
    cases hc1.symm.trans hd
    exact hdd
  have hclosing : (s1.isClosingMember c.desc.group n && off + 1 == c.desc.len) = closing := by
    rw [State.isClosingMember, hset.members]
    rfl
  unfold takeConsumerRead steerConsumerRead
  simp only [hc, hs, hc1, hdesc, hclosing]
  cases closing <;> cases c1.held <;> rfl

/-- R82: a read by a port in the window of a channel that it consumes. -/
theorem take_of_consumer {s : State} {p : Port} {d : Drive} {n off : Nat} {c : Channel}
    (hl : landing s d.addr = .channel n off) (hc : s.channel? n = some c) (hp : c.desc.producer = p.other)
    (hd : d.wr = false) : take p d s = (takeConsumerRead n off s).1.setAccess p (.taken
      { drive := d, outcome := .channel (takeConsumerRead n off s).2, err := false, withdrawn := false }) := by
  have hne : c.desc.producer ≠ p := hp ▸ Port.other_ne p
  refine take_of_allowed ?_ rfl
  unfold decodeAndAct
  simp only [hl, takeChannel, hc, hne, hd, if_false, Bool.false_eq_true]

/-- R46: the event of a consumer read that changes channels, groups and marks alone, and no level of a channel. -/
theorem exec_consumerRead {s u : State} {p : Port} {a : LogAddr} {n off : Nat} {c : Channel}
    {C : Vector (Option Channel) 24} {G : Vector (Option Group) 24} {M : Mirror} {o : ChannelAccess} (hu : u = settle s)
    (ht : Takes u p) (hl : landing u a = .channel n off) (hc : u.channel? n = some c) (hp : c.desc.producer = p.other)
    (hr : takeConsumerRead n off (drivePort p (Drive.read a) u) =
      ({ drivePort p (Drive.read a) u with channels := C, groups := G, mirror := M }, o))
    (hlev : ∀ m, (State.channel? { u with channels := C } m).map Channel.levels = (u.channel? m).map Channel.levels) :
    exec (.consumerRead p a) s =
      .next (grant { u.taking p (Drive.read a) (.channel o) false with channels := C, groups := G, mirror := M }) := by
  have htake : present p (Drive.read a) u =
      { u.taking p (Drive.read a) (.channel o) false with channels := C, groups := G, mirror := M } := by
    have hl' : landing (drivePort p (Drive.read a) u) (Drive.read a).addr = .channel n off := hl
    have hc' : (drivePort p (Drive.read a) u).channel? n = some c := hc
    rw [present_of_takes ht, take_of_consumer hl' hc' hp rfl, hr]
    rfl
  have hsame : ∀ y, pendingSet
      { u.taking p (Drive.read a) (.channel o) false with channels := C, groups := G, mirror := M } y = pendingSet u y :=
    fun y => pendingSet_of_levels rfl rfl hlev ⟨rfl, rfl⟩
  have hexec : exec (.consumerRead p a) s = .next (grant (noteReports u (present p (Drive.read a) u))) := by
    rw [hu]; rfl
  rw [hexec, htake, noteReports_of_same hsame]

/-- Settles O20: the pin stands open, so the read is steered by the record as it is. -/
theorem aConsumerReadUnderAPinReadsTheHeldBuffer : Obligations.AConsumerReadUnderAPinReadsTheHeldBuffer := by
  intro s p a n off c gr pin u g closing htake hland hc hprod hg hpin
  have hu : u = settle s := rfl
  clear_value u
  let x := drivePort p (Drive.read a) u
  let G := (if closing then cancelHoldDeadline g x else x).groups
  have hopen : openPin g x = x := by
    have hxg : x.group? g = some gr := hg
    simp [openPin, hxg, hpin]
  have hG : ∀ h, State.group? { u with groups := G } h = if h = g then
      some { gr with pin := some { pin with deadline := if closing then none else pin.deadline } } else u.group? h := by
    intro h
    refine (group?_cancelHoldDeadline x g closing h).trans ?_
    rw [show x.group? g = some gr from hg, Option.map_some, hpin]
    rfl
  exact ⟨_, exec_consumerRead (C := u.channels) (M := u.mirror) hu htake hland hc hprod
      (takeConsumerRead_eq (s := x) hc hopen hc) fun _ => rfl,
    (hG g).trans (if_pos rfl), fun h hne => (hG h).trans (if_neg hne), rfl⟩

/-- Settles O19: the pin opens over every member, and the read is steered by the record that this leaves. -/
theorem aConsumerReadOpensAPin : Obligations.AConsumerReadOpensAPin := by
  intro s p a n off c gr u g closing htake hland hc hprod hg hpin
  have hu : u = settle s := rfl
  clear_value u
  let x := drivePort p (Drive.read a) u
  obtain ⟨hch, hgroup, heq, hmarks⟩ := openPin_spec (s := x) (g := g) hg hpin
  generalize hx1 : openPin g x = x1 at hch hgroup heq hmarks
  let cw := if n ∈ u.members g then c.pinned else c
  have hcw : x1.channel? n = some cw := by
    rw [hch, show x.channel? n = some c from hc]
    exact (apply_ite some _ _ _).symm
  let G := (if closing then cancelHoldDeadline g x1 else x1).groups
  have hframe : { x1 with groups := G } = { x with channels := x1.channels, groups := G, mirror := x1.mirror } :=
    congrArg (fun z : State => { z with groups := G }) heq
  have hr := (takeConsumerRead_eq (s := x) (off := off) hc hx1 hcw).trans (congrArg (fun z : State => (z, _)) hframe)
  have hlev : ∀ m, (State.channel? { u with channels := x1.channels } m).map Channel.levels =
      (u.channel? m).map Channel.levels := by
    intro m
    refine (congrArg (Option.map Channel.levels) (hch m)).trans ?_
    split
    · rw [Option.map_map]; rfl
    · rfl
  have hG : ∀ h, State.group? { u with groups := G } h = if h = g then some { gr with
      pin := some
        { openTime := u.clock
          deadline := if closing then none else formDeadline u.clock gr.desc.holdLimit
          tainted := false } } else u.group? h := by
    intro h
    refine (group?_cancelHoldDeadline x1 g closing h).trans ?_
    rw [hgroup, if_pos rfl]
    split
    · rfl
    · rename_i hne; exact (hgroup h).trans (if_neg hne)
  refine ⟨_, cw, exec_consumerRead hu htake hland hc hprod hr hlev, (hG g).trans (if_pos rfl),
    fun h hne => (hG h).trans (if_neg hne), fun m => hch m, hcw, rfl, ?_⟩
  exact hmarks

end Sys2Proof.Machine

/-! SUPPORT. The completion of a consumer read (R48, R49) and of a read in error (R103, R104): the PARITY report, the taint and
the close of the pin, and the event around them. -/
namespace Sys2Proof.Machine

/-! ### The event around a completion with lanes in error -/

/-- R93: a completion after which no arrival follows, whose report and exchange unit's part make `e` of `x`, the state in which
the cycle, if there was one, has ended. -/
theorem completion_with_errors {u x e : State} {p : Port} {t : Taken} (wd : Word) {errs : Lanes}
    (he : completionEffects t p errs x = e) (hports : x.ports = u.ports) (hpend : ∀ q, pendingSet x q = pendingSet u q)
    (hn : NoNewArrival u p t) :
    ∃ w, noteReports u (complete p t wd errs x) = w ∧ w.channels = e.channels ∧ w.groups = e.groups ∧
      w = { x.setAccess p (t.ended wd (t.err || (errs != 0 && (u.ports.get p).faultSignal))) with
        channels := e.channels
        groups := e.groups
        journals := e.journals
        attention := e.attention
        mirror := w.mirror } ∧
      ∀ is, Marks x e is → Marks x w (is ++ changedReports u w) := by
  have ho : OnlyExchange x e := he ▸ completionEffects_only t p errs x
  let e' := noteReports x e
  have heports : e'.ports = u.ports := ((noteReports_only x e).ports.trans ho.ports).trans hports
  have hcomplete : complete p t wd errs x =
      e'.setAccess p (t.ended wd (t.err || (errs != 0 && (u.ports.get p).faultSignal))) := by
    unfold complete
    rw [he, ← heports]
    exact finishPort_of_noNewArrival wd errs fun ht => by rw [heports]; exact hn ht
  have hee : e' = { e with mirror := e'.mirror } := noteReports_eq x e
  rw [hcomplete]
  refine ⟨_, rfl, ?_, ?_, ?_, fun is his => ?_⟩
  · rw [channels_noteReports, State.setAccess_channels, hee]
  · rw [groups_noteReports, State.setAccess_groups, hee]
  · have hw := noteReports_eq u (e'.setAccess p (t.ended wd (t.err || (errs != 0 && (u.ports.get p).faultSignal))))
    generalize noteReports u (e'.setAccess p _) = w at hw ⊢
    rw [hw, hee, ho.eq]
    rfl
  · have hrep : changedReports x e = changedReports u (e'.setAccess p
        (t.ended wd (t.err || (errs != 0 && (u.ports.get p).faultSignal)))) := by
      refine changedReports_congr hpend fun q => ?_
      rw [pendingSet_setAccess, hee]
      rfl
    rw [changedReports_noteReports]
    exact ((his.trans (marks_noteReports x e)).trans (marks_setAccess e' p _)).trans
      (marks_noteReports u _) |>.congr fun i => by rw [hrep]; simp

/-! ### The PARITY report (R103) -/

/-- R103: the report of a read that reached the word at `phys`. -/
theorem tells_reportParity {t : Taken} {phys : PhysAddr} (hphys : t.outcome.phys? = some phys) (hwr : t.drive.wr = false)
    (p : Port) (errs : Lanes) (s : State) : Tells s (reportParity p t errs s)
      (onlyTo p [] (if errs != 0 then [parityRecord t.outcome.bufferRead? errs phys t.drive.addr s.clock] else []))
      (onlyTo p 0 (causeIf .parity (errs != 0))) [] := by
  unfold reportParity
  simp only [hphys, hwr, Bool.not_false, Bool.true_and]
  cases errs != 0 with
  | false => exact (tells_refl s).congr (fun q => by simp [onlyTo]) (fun q => by simp [onlyTo, causeIf]) fun _ => Iff.rfl
  | true =>
    exact ((tells_offer s p _).trans (tells_raise _ p .parity)).congr (fun q => by simp)
      (fun q => by simp [causeIf]) (fun _ => by simp)

theorem groups_reportParity (p : Port) (t : Taken) (errs : Lanes) (s : State) :
    (reportParity p t errs s).groups = s.groups := by
  unfold reportParity
  split
  · split
    · simp only [State.raise_groups, State.offer_groups]
    · rfl
  · rfl

/-! ### The taint of a pin (R49) -/

/-- An open pin of group `g` is not tainted yet. -/
def State.untainted (s : State) (g : Nat) : Bool :=
  match (s.group? g).bind (·.pin) with
  | some q => !q.tainted
  | none => false

/-- R49: the record of a group whose pin, if open, is tainted. -/
def Group.taint (gr : Group) : Group := { gr with pin := gr.pin.map fun q => { q with tainted := true } }

theorem group?_taintPin (s : State) (g h : Nat) :
    (taintPin g s).group? h = if h = g then (s.group? g).map Group.taint else s.group? h := by
  unfold taintPin
  cases hg : s.group? g with
  | none => by_cases hh : h = g <;> simp [hh, hg]
  | some gr =>
    cases hp : gr.pin with
    | none =>
      have hsame : gr.taint = gr := by cases gr; cases hp; rfl
      by_cases hh : h = g <;> simp [hh, hg, hp, hsame]
    | some q =>
      simp only [Option.bind_some, hp]
      split
      · rename_i ht
        have hsame : gr.taint = gr := by cases gr; cases q; cases hp; cases ht; rfl
        by_cases hh : h = g <;> simp [hh, hg, hsame]
      · rw [State.mark_group_at, State.group?_modGroup, hg]
        rfl

theorem tells_taintPin (g : Nat) (s : State) : Tells s (taintPin g s) (fun _ => []) (fun _ => 0)
    (if s.untainted g then [.groupBlock g] else []) := by
  unfold taintPin State.untainted
  cases (s.group? g).bind (·.pin) with
  | none => exact tells_refl s
  | some q =>
    dsimp only
    split
    · rename_i ht
      simpa [ht] using tells_refl s
    · rename_i ht
      exact ((tells_modGroup s g _).trans (tells_mark _ (.groupBlock g))).congr (fun _ => rfl) (fun _ => by simp)
        (fun i => by simp [ht])

/-! ### The close of a pin (R48) -/

/-- R48: what the close of an open pin does, and what it tells the consumer. -/
theorem closePin_spec {s : State} {g : Nat} {gr : Group} {pin : Pin} (hg : s.group? g = some gr) (hpin : gr.pin = some pin) :
    (∀ h, (closePin g s).group? h = if h = g then some { gr with pin := none } else s.group? h) ∧
    (∀ m, (closePin g s).channel? m =
      if m ∈ s.members g then (s.channel? m).map fun k => { k with held := none } else s.channel? m) ∧
    Tells s (closePin g s)
      (onlyTo (s.groupConsumer g) []
        (if pin.tainted then [mkRecord .pinTainted g none 0 (s.freedMask g) pin.openTime s.clock] else []))
      (onlyTo (s.groupConsumer g) 0 (causeIf .pinFault pin.tainted)) (.groupBlock g :: (heldMembers s g).map .chanBlock) := by
  have hgroup := group?_dropPin g s
  rw [hg] at hgroup
  have hdrop := tells_dropPin g s
  unfold closePin
  simp only [hg, Option.bind_some, hpin]
  cases pin.tainted with
  | false =>
    exact ⟨hgroup, channel?_dropPin g s, hdrop.congr (fun p => by simp [onlyTo]) (fun p => by simp [onlyTo, causeIf])
      fun _ => Iff.rfl⟩
  | true =>
    refine ⟨fun h => ?_, fun m => ?_, ?_⟩
    · rw [if_pos rfl, State.raise_group_at, State.offer_group_at]
      exact hgroup h
    · rw [if_pos rfl, State.raise_channel_at, State.offer_channel_at]
      exact channel?_dropPin g s m
    · exact ((hdrop.trans (tells_offer _ _ _)).trans (tells_raise _ _ .pinFault)).congr (fun p => by simp)
        (fun p => by simp [causeIf]) (fun i => by simp)

/-! ### The completion of a closing read (R48, R49) -/

/-- R48, R49: the completion of a closing read with its pin open, from the state `x` in which its cycle, if it had one, has
ended and `ps` are the records of its PARITY report. -/
theorem closingRead_spec {x : State} {p : Port} {t : Taken} {errs : Lanes} {a : ChannelAccess} {c : Channel} {gr : Group}
    {pin : Pin} {ps : List Record} (hout : t.outcome = .channel a) (hside : a.side = .consumer) (hclosing : a.closing = true)
    (hc : x.channel? a.ch = some c) (hg : x.group? c.desc.group = some gr) (hpin : gr.pin = some pin)
    (hcons : x.groupConsumer c.desc.group = p)
    (hparity : Tells x (reportParity p t errs x) (onlyTo p [] ps) (onlyTo p 0 (causeIf .parity (errs != 0))) []) :
    let g := c.desc.group
    let e := completionEffects t p errs x
    (∀ h, e.group? h = if h = g then some { gr with pin := none } else x.group? h) ∧
    (∀ m, e.channel? m =
      if m ∈ x.members g then (x.channel? m).map fun k => { k with held := none } else x.channel? m) ∧
    Tells x e
      (onlyTo p [] (ps ++ if pin.tainted || errs != 0 then
        [mkRecord .pinTainted g none 0 (x.freedMask g) pin.openTime x.clock] else []))
      (onlyTo p 0 (causeIf .parity (errs != 0) ||| causeIf .pinFault (pin.tainted || errs != 0)))
      (.groupBlock g :: (heldMembers x g).map .chanBlock) := by
  intro g e
  let v := reportParity p t errs x
  let z := if errs != 0 then taintPin g v else v
  have hvc : v.channels = x.channels := channels_reportParity p t errs x
  have hvg : v.groups = x.groups := groups_reportParity p t errs x
  have he : e = closePin g z := by
    have hv : v.channel? a.ch = some c := (channel?_congr hvc _).trans hc
    change exchangeStep t errs v = _
    simp only [exchangeStep, hout, exchangeCompletion, hside, hclosing, hv, if_true]
    rfl
  have hzc : z.channels = x.channels := by
    simp only [z]
    split
    · exact (channels_taintPin g v).trans hvc
    · exact hvc
  have hzg : ∀ h, z.group? h =
      if h = g then some { gr with pin := some { pin with tainted := pin.tainted || errs != 0 } } else x.group? h := by
    intro h
    simp only [z]
    cases errs != 0 with
    | true =>
      simp only [if_true, group?_taintPin, group?_congr hvg, Bool.or_true]
      rw [hg, Option.map_some, Group.taint, hpin, Option.map_some]
    | false =>
      have hsame : { gr with pin := some pin } = gr := by rw [← hpin]
      simp only [Bool.false_eq_true, if_false, group?_congr hvg, Bool.or_false, hsame]
      split
      · rename_i hh; rw [hh]; exact hg
      · rfl
  have hz : Tells v z (fun _ => []) (fun _ => 0) (if (errs != 0 && v.untainted g) = true then [.groupBlock g] else []) := by
    simp only [z]
    cases errs != 0
    · exact tells_refl v
    · exact tells_taintPin g v
  have hsame : SameChains x z := by
    refine ⟨State.descOf_congr hzc, fun h => ?_⟩
    rw [hzg]
    split
    · rename_i hh; rw [hh, hg]; rfl
    · rfl
  have hclock : z.clock = x.clock := (hparity.trans hz).clock
  have hmask : z.freedMask g = x.freedMask g := by
    have hold : z.holdsOld = x.holdsOld := funext fun m => by
      unfold State.holdsOld
      rw [channel?_congr hzc]
    rw [State.freedMask, State.freedMask, hsame.members, hold]
  have hheld : heldMembers z g = heldMembers x g := by
    have his : z.channelIs (·.held.isSome) = x.channelIs (·.held.isSome) := funext fun m => by
      unfold State.channelIs
      rw [channel?_congr hzc]
    rw [heldMembers, heldMembers, hsame.members, his]
  have hconsumer : z.groupConsumer g = p := by
    rw [State.groupConsumer, hsame.groupProducer]
    exact hcons
  obtain ⟨hgroup, hchan, htell⟩ := closePin_spec ((hzg g).trans (if_pos rfl)) rfl
  rw [hconsumer, hclock, hmask, hheld] at htell
  rw [he]
  refine ⟨fun h => ?_, fun m => ?_, ((hparity.trans hz).trans htell).congr (fun q => ?_) (fun q => ?_) fun i => ?_⟩
  · rw [hgroup, hzg]
    split
    · rfl
    · rfl
  · rw [hchan, hsame.members, channel?_congr hzc]
  · simp [onlyTo_append]
  · rw [← onlyTo_or]
    simp
  · cases errs != 0 && v.untainted g <;> simp

/-- R48, R49: the event of a closing read, from the state `u` with the M port and memory as the end of its cycle, if it had
one, leaves them. -/
theorem pinClosed_of_closingRead {u x : State} {p : Port} {t : Taken} {errs : Lanes} {a : ChannelAccess} {c : Channel}
    {gr : Group} {pin : Pin} {ps : List Record} (wd : Word) (hx : x = { u with cycle := x.cycle, mem := x.mem })
    (hn : NoNewArrival u p t) (hout : t.outcome = .channel a) (hside : a.side = .consumer) (hclosing : a.closing = true)
    (hc : u.channel? a.ch = some c) (hg : u.group? c.desc.group = some gr) (hpin : gr.pin = some pin)
    (hcons : u.groupConsumer c.desc.group = p)
    (hparity : Tells x (reportParity p t errs x) (onlyTo p [] ps) (onlyTo p 0 (causeIf .parity (errs != 0))) []) :
    ∃ w, noteReports u (complete p t wd errs x) = w ∧
      PinClosed u (x.setAccess p (t.ended wd (t.err || (errs != 0 && (u.ports.get p).faultSignal)))) w c.desc.group gr p
        (ps ++ if pin.tainted || errs != 0 then
          [mkRecord .pinTainted c.desc.group none 0 (u.freedMask c.desc.group) pin.openTime u.clock] else [])
        (causeIf .parity (errs != 0) ||| causeIf .pinFault (pin.tainted || errs != 0)) := by
  obtain ⟨cycle, mem, rfl⟩ : ∃ cycle mem, x = { u with cycle := cycle, mem := mem } := ⟨_, _, hx⟩
  let y : State := { u with cycle := cycle, mem := mem }
  obtain ⟨hgroup, hchan, htell⟩ := closingRead_spec (x := y) hout hside hclosing hc hg hpin hcons hparity
  obtain ⟨hj, hatt, hmarks⟩ := htell.to_one
  obtain ⟨w, hw1, hwc, hwg, hw, hm⟩ :=
    completion_with_errors (u := u) (x := y) (e := completionEffects t p errs y) wd rfl rfl (fun _ => rfl) hn
  have hwgroup := fun h => (group?_congr hwg h).trans (hgroup h)
  refine ⟨w, hw1, (hwgroup _).trans (if_pos rfl), fun h hne => (hwgroup h).trans (if_neg hne),
    fun m => (channel?_congr hwc m).trans (hchan m), ?_, hm _ hmarks⟩
  rw [← hwc, ← hwg, hj, hatt] at hw
  exact hw

/-- Settles O28: a read served as zero has no lane in error; one served from memory reports those it has. -/
theorem aClosingReadClosesThePin : Obligations.AClosingReadClosesThePin := by
  intro s p t a c gr pin u g mask taintedRecord hn hwr hout hside hclosing hc hg hpin hcons
  have hu : u = settle s := rfl
  clear_value u
  refine ⟨fun hacc hsteer => ?_, fun cy b phys hcy huse hcwr hacc hsteer => ?_⟩
  · have hphys : t.outcome.phys? = none := by simp [hout, Decoded.phys?, hsteer]
    have hparity : Tells u (reportParity p t 0 u) (onlyTo p [] []) (onlyTo p 0 (causeIf .parity ((0 : Lanes) != 0))) [] := by
      rw [reportParity_zero]
      exact (tells_refl u).congr (fun q => by simp [onlyTo]) (fun q => by simp [onlyTo, causeIf]) fun _ => Iff.rfl
    obtain ⟨w, hw, hclosed⟩ := pinClosed_of_closingRead 0 rfl hn hout hside hclosing hc hg hpin hcons hparity
    refine ⟨w, by rw [exec_cyclelessCompletion hu, completeCycleless_of_taken hacc hphys, hw], ?_⟩
    have hcauses : causeIf .parity false ||| causeIf .pinFault pin.tainted = causeIf .pinFault pin.tainted :=
      BitVec.zero_or
    simp only [bne_self_eq_false, Bool.false_and, Bool.or_false, List.nil_append, hcauses] at hclosed
    exact hclosed
  · intro errs bad
    have hphys : t.outcome.phys? = some phys := by simp [hout, Decoded.phys?, hsteer]
    have hread : t.outcome.bufferRead? = some (a.ch, b, .consumer) := by simp [hout, Decoded.bufferRead?, hsteer, hside]
    have hparity := tells_reportParity hphys hwr p errs (u.cycleEnded cy)
    rw [hread] at hparity
    obtain ⟨w, hw, hclosed⟩ := pinClosed_of_closingRead (x := u.cycleEnded cy) (u.mem.word cy.addr) rfl hn hout hside
      hclosing hc hg hpin hcons hparity
    have hended : u.cycleEnded cy = { u with cycle := none } := by simp [State.cycleEnded, cycleMem, hcwr]
    refine ⟨w, ?_, hended ▸ hclosed⟩
    rw [exec_memoryCycleEnd hu, memoryCycleEnd_of_port hcy huse hacc]
    simp only [cycleWord, cycleErrors, hcwr, Bool.false_eq_true, if_false]
    exact congrArg (fun z => Host.Outcome.next (grant z)) hw

end Sys2Proof.Machine

/-! SUPPORT. A port read in error that closes nothing (R103, R104): the bits of its record, and the taint of the pin that a
consumer read belongs to (R49). -/
namespace Sys2Proof.Machine

/-! ### The PARITY record (R104, R180) -/

/-- The flags of the record of a read in a channel window. -/
theorem parityFlags_of_channel (errs : Lanes) (consumer : Bool) :
    let flags : BitVec 12 := (0#6 ++ BitVec.ofBool consumer ++ 1#1 ++ errs : BitVec (6 + 1 + 1 + 4))
    flags.extractLsb' 0 4 = errs ∧ flags.getLsbD 4 = true ∧ flags.getLsbD 5 = consumer ∧ flags.extractLsb' 6 6 = 0 := by
  revert errs consumer
  decide

/-- The flags of the record of any other read. -/
theorem parityFlags_of_plain (errs : Lanes) :
    let flags : BitVec 12 := (0#8 ++ errs : BitVec (8 + 4))
    flags.extractLsb' 0 4 = errs ∧ flags.getLsbD 4 = false ∧ flags.getLsbD 5 = false ∧ flags.extractLsb' 6 6 = 0 := by
  revert errs
  decide

theorem parityRecord_fields (chan : Option (Nat × Nat × Side)) (errs : Lanes) (phys : PhysAddr) (addr : LogAddr)
    (now : Word) : ∃ (flags : BitVec 12) (arg timeB : Word),
      parityRecord chan errs phys addr now = (match chan with
        | some (n, b, _) => mkRecord .parity n (some b) flags arg now timeB
        | none => mkRecord .parity 0 none flags arg now timeB) ∧
      flags.extractLsb' 0 4 = errs ∧ flags.getLsbD 4 = chan.isSome ∧
      flags.getLsbD 5 = (match chan with
        | some (_, _, side) => side == .consumer
        | none => false) ∧
      flags.extractLsb' 6 6 = 0 ∧ arg.extractLsb' 0 17 = phys ∧ arg.extractLsb' 17 15 = 0 ∧
      timeB.extractLsb' 0 16 = addr ∧ timeB.extractLsb' 16 16 = 0 := by
  have harg : (0#15 ++ phys : BitVec (15 + 17)).extractLsb' 0 17 = phys ∧
      (0#15 ++ phys : BitVec (15 + 17)).extractLsb' 17 15 = 0 :=
    ⟨BitVec.extractLsb'_append_eq_right, BitVec.extractLsb'_append_eq_left⟩
  have htime : (0#16 ++ addr : BitVec (16 + 16)).extractLsb' 0 16 = addr ∧
      (0#16 ++ addr : BitVec (16 + 16)).extractLsb' 16 16 = 0 :=
    ⟨BitVec.extractLsb'_append_eq_right, BitVec.extractLsb'_append_eq_left⟩
  cases chan with
  | some k =>
    obtain ⟨n, b, side⟩ := k
    obtain ⟨hlanes, hchannel, hside, hrest⟩ := parityFlags_of_channel errs (side == .consumer)
    exact ⟨_, _, _, rfl, hlanes, hchannel, hside, hrest, harg.1, harg.2, htime.1, htime.2⟩
  | none =>
    obtain ⟨hlanes, hchannel, hside, hrest⟩ := parityFlags_of_plain errs
    exact ⟨_, _, _, rfl, hlanes, hchannel, hside, hrest, harg.1, harg.2, htime.1, htime.2⟩

/-! ### The pin of a consumer read (R49) -/

/-- R49: the access is a consumer's, in the window of a channel of group `g`. -/
def consumesGroup (s : State) (t : Taken) (g : Nat) : Bool :=
  match t.outcome with
  | .channel a => a.side == .consumer && (s.channel? a.ch).map (·.desc.group) == some g
  | _ => false

/-- R10, R48: what the exchange unit does at the completion of a read that closes nothing: where a lane is in error it taints
the pin of a consumer read. -/
theorem exchangeStep_of_read {t : Taken} {s : State} (hwr : t.drive.wr = false) (hcl : ClosesNothing s t) {errs : Lanes}
    (herr : errs ≠ 0) : (exchangeStep t errs s = s ∧ ∀ g, consumesGroup s t g = false) ∨
      ∃ g, exchangeStep t errs s = taintPin g s ∧ ∀ h, consumesGroup s t h = decide (h = g) := by
  have hbad : (errs != 0) = true := by simpa using herr
  unfold exchangeStep consumesGroup
  cases ho : t.outcome with
  | channel a =>
    unfold exchangeCompletion
    cases hs : a.side with
    | producer => exact .inl ⟨by simp [hs, hwr], fun g => by simp [hs]⟩
    | consumer =>
      cases hc : s.channel? a.ch with
      | none => exact .inl ⟨by simp [hs, hc], fun g => by simp [hs, hc]⟩
      | some c =>
        refine .inr ⟨c.desc.group, ?_, fun h => ?_⟩
        swap
        · simp only [hs, hc, Option.map_some, beq_self_eq_true, Bool.true_and]
          exact decide_eq_decide.mpr eq_comm
        simp only [hs, hc, hbad, if_true]
        split
        · rename_i hclosing
          have hpins := hcl a c ho hclosing hc
          rw [hs] at hpins
          have hnone : ((taintPin c.desc.group s).group? c.desc.group).bind (·.pin) = none := by
            rw [group?_taintPin, if_pos rfl]
            cases hg : s.group? c.desc.group with
            | none => rfl
            | some gr => simp [Group.taint, hpins gr hg]
          simp [closePin, hnone]
        · rfl
  | _ => exact .inl ⟨rfl, fun _ => rfl⟩

/-- R49: what the exchange unit does to the groups at the completion of a read in error that closes nothing, and the blocks
that this marks. -/
theorem exchangeStep_of_read_spec {t : Taken} {s : State} (hwr : t.drive.wr = false) (hcl : ClosesNothing s t) {errs : Lanes}
    (herr : errs ≠ 0) :
    let e := exchangeStep t errs s
    e.channels = s.channels ∧
    (∀ g, e.group? g = (s.group? g).map fun gr => if consumesGroup s t g then gr.taint else gr) ∧
    Tells s e (fun _ => []) (fun _ => 0)
      (((List.range 24).filter fun g => consumesGroup s t g && s.untainted g).map .groupBlock) := by
  intro e
  rcases exchangeStep_of_read hwr hcl herr with ⟨he, hnone⟩ | ⟨g, he, hg⟩
  · rw [show e = s from he]
    exact ⟨rfl, fun g => by simp [hnone],
      (tells_refl s).congr (fun _ => rfl) (fun _ => rfl) fun i => by simp [hnone]⟩
  · simp only [e, he, hg]
    refine ⟨channels_taintPin g s, fun h => ?_, (tells_taintPin g s).congr (fun _ => rfl) (fun _ => rfl) fun i => ?_⟩
    · rw [group?_taintPin]
      by_cases hh : h = g
      · simp [hh]
      · simp [hh]
    · have hlt : s.untainted g = true → g < 24 := by
        unfold State.untainted
        cases hgr : s.group? g with
        | none => simp
        | some gr => exact fun _ => State.group?_lt hgr
      cases hu : s.untainted g with
      | false =>
        simp only [List.mem_map, List.mem_filter, Bool.and_eq_true, decide_eq_true_eq, Bool.false_eq_true, if_false,
          List.not_mem_nil, iff_false]
        rintro ⟨h, ⟨-, rfl, hh⟩, -⟩
        rw [hu] at hh
        cases hh
      | true =>
        simp only [List.mem_map, List.mem_filter, List.mem_range, Bool.and_eq_true, decide_eq_true_eq, if_true,
          List.mem_singleton]
        constructor
        · rintro ⟨h, ⟨-, rfl, -⟩, rfl⟩
          rfl
        · rintro rfl
          exact ⟨g, ⟨hlt hu, rfl, hu⟩, rfl⟩

/-- Settles O30: the report comes first, then the taint; nothing closes. -/
theorem aReadInErrorIsReportedToItsReader : Obligations.AReadInErrorIsReportedToItsReader := by
  refine ⟨parityRecord_fields, fun o => by cases o <;> rfl, ?_⟩
  intro s p t c phys u errs j rs consumed untainted hcy huse hcwr hacc hdwr hn hphys hcl herr
  have hu : u = settle s := rfl
  clear_value u
  let x := u.cycleEnded c
  let v := reportParity p t errs x
  have hbad : (errs != 0) = true := by simpa using herr
  have hv : v = (x.offer p (parityRecord t.outcome.bufferRead? errs phys t.drive.addr u.clock)).raise p .parity := by
    simp only [v, reportParity, hphys, hdwr, hbad, Bool.not_false, Bool.true_and, if_true]
    rfl
  have hsame : (∀ n, v.channel? n = u.channel? n) ∧ ∀ g, v.group? g = u.group? g := by
    rw [hv]
    exact ⟨fun _ => rfl, fun _ => rfl⟩
  have hclv : ClosesNothing v t := by
    rw [hv]
    exact hcl
  have hparity := tells_reportParity hphys hdwr p errs x
  simp only [hbad, if_true] at hparity
  obtain ⟨hec, heg, hetell⟩ := exchangeStep_of_read_spec hdwr hclv herr
  have hcons : consumesGroup v t = consumed :=
    show consumesGroup v t = consumesGroup u t from funext fun g => by simp only [consumesGroup, hsame.1]
  have hunt : v.untainted = untainted :=
    show v.untainted = u.untainted from funext fun g => by simp only [State.untainted, hsame.2]
  rw [hcons, hunt] at hetell
  rw [hcons] at heg
  have htell : Tells x (exchangeStep t errs v) (onlyTo p [] rs) (onlyTo p 0 Cause.parity.bit)
      (((List.range 24).filter fun g => consumed g && untainted g).map .groupBlock) :=
    (hparity.trans hetell).congr (fun q => (List.append_nil _).symm) (fun q => by simp [causeIf]) fun i => by simp
  obtain ⟨hj, hatt, hmarks⟩ := htell.to_one
  obtain ⟨w, hw1, hwc, hwg, hw, hm⟩ := completion_with_errors (u := u) (x := x) (p := p) (t := t) (errs := errs)
    (e := exchangeStep t errs v) (u.mem.word c.addr) rfl rfl (fun _ => rfl) hn
  refine ⟨w, ?_, fun g => ?_, ?_, (hm _ hmarks).congr fun i => ?_⟩
  · rw [exec_memoryCycleEnd hu, memoryCycleEnd_of_port hcy huse hacc]
    simp only [cycleWord, cycleErrors, hcwr, Bool.false_eq_true, if_false]
    exact congrArg (fun z => Host.Outcome.next (grant z)) hw1
  · rw [group?_congr hwg, heg, hsame.2]
    rfl
  · have hx : x = { u with cycle := none } := by simp [x, State.cycleEnded, cycleMem, hcwr]
    have hchan : (exchangeStep t errs v).channels = u.channels := hec.trans (channels_reportParity p t errs x)
    rw [← hwg, hchan, hj, hatt, hbad, Bool.true_and] at hw
    rw [hw, hx]
    rfl
  · simp only [List.mem_append]
    tauto

end Sys2Proof.Machine

/-! SUPPORT. The values of reset (R168), the fall of RST_N, an edge of TCLK (R55, R56) and the freshness deadline (R68). -/
namespace Sys2Proof.Machine

/-! ### Reset (R168) -/

/-- R166: no cause is latched at reset, and no level holds. -/
theorem pendingSet_reset (p : Port) : pendingSet State.reset p = 0 := by
  have hlatched : (State.reset.attention.get p).latched = 0 := by cases p <;> rfl
  have hjournal : journalHolds State.reset p = false := by cases p <;> rfl
  have hpart : (State.reset.partState == .holdover) = false := rfl
  simp [pendingSet, levelSet, anyHalted, anyStale, causeIf, hlatched, hjournal, hpart]

/-- Settles O51: nothing is installed at reset, so no level cause holds; the other values are as they are set. -/
theorem resetHoldsTheStatedValues : Obligations.ResetHoldsTheStatedValues := by
  refine ⟨rfl, rfl, rfl, rfl, rfl, channel?_reset, group?_reset, region?_reset, rfl, rfl, rfl, rfl, rfl, rfl, rfl,
    fun _ => Iff.rfl, fun n hn => ?_, fun p => ?_⟩
  · simp [Mirror.count, State.reset, Mirror.reset, hn]
  · have hpend := pendingSet_reset p
    cases p <;> exact ⟨rfl, rfl, rfl, rfl, rfl, rfl, rfl, rfl, rfl, hpend, rfl, rfl, rfl, rfl⟩

/-- Settles O49: the fall of RST_N is `enterReset` of the settled state, and settling keeps the queue. -/
theorem aFallOfRstResetsEveryBlock : Obligations.AFallOfRstResetsEveryBlock := by
  intro s hrst
  have hexec : exec .resetAssert s = .next (resetFalls (settle s)) := rfl
  refine ⟨enterReset (settle s), ?_, ?_⟩
  · rw [hexec, resetFalls, if_pos hrst]
  · rw [← settle_pending s]
    rfl

/-! ### The clock (R55, R56) -/

/-- R157: an edge of TCLK changes no pending set. -/
theorem pendingSet_clockEdge (s : State) (p : Port) : pendingSet (clockEdge s) p = pendingSet s p := by
  unfold clockEdge
  split
  · split <;> rfl
  · rfl

/-- Settles O38: the command's name does not matter, and the count decides between the two cases of the edge. -/
theorem anEdgeOfTclkCountsAndTicks : Obligations.AnEdgeOfTclkCountsAndTicks := by
  intro s i u hi
  have hexec : exec i s = .next (grant (noteReports u (clockEdge u))) := by
    rcases hi with rfl | rfl <;> rfl
  rw [hexec, noteReports_of_same (pendingSet_clockEdge u)]
  refine ⟨fun hrst hlt => ?_, fun hrst hle => ?_, fun hrst => ?_⟩
  · rw [clockEdge, if_pos hrst, if_neg (by omega)]
  · rw [clockEdge, if_pos hrst, if_pos hle]
  · rw [clockEdge, if_neg (by simp [hrst])]

/-! ### The freshness deadline (R68) -/

/-- Settles O40: the deadline is due, the channel goes STALE, and its record goes to the consumer. -/
theorem aFreshnessDeadlineMakesTheChannelStale : Obligations.AFreshnessDeadlineMakesTheChannelStale := by
  intro s n c dl x j rs hstate hc hdl hreached
  have hexec : exec (.freshnessDeadlineReached n) s = .next (grant (noteReports s (becomeStale n s))) :=
    exec_own (due := freshDue s n) rfl (by simp [freshDue, hstate, hc, hdl, isReached_of_eq hreached])
  have hstep : becomeStale n s = ((s.modChannel n fun c => { c with cond := .stale, freshDl := none }).mark
      (.chanBlock n)).offer x (mkRecord .stale n c.live (flagBit 0 (c.cond == .empty)) c.pubCount c.lastPub s.clock) := by
    simp only [becomeStale, hc, x]
  have htells : Tells s (becomeStale n s) (onlyTo x [] rs) (onlyTo x 0 0) [.chanBlock n] := by
    rw [hstep]
    exact (((tells_modChannel s n _).trans (tells_mark _ _)).trans (tells_offer _ x _)).congr
      (fun p => by simp [rs]) (fun p => by simp [onlyTo]) (fun i => by simp)
  have hch : ∀ m, (noteReports s (becomeStale n s)).channel? m =
      if m = n then some { c with cond := .stale, freshDl := none } else s.channel? m := by
    intro m
    rw [channel?_congr (channels_noteReports _ _), hstep, State.offer_channel_at, State.mark_channel_at,
      State.channel?_modChannel, hc]
    rfl
  have hgroups : (noteReports s (becomeStale n s)).groups = s.groups := by
    rw [groups_noteReports, hstep]
    rfl
  obtain ⟨hw, hmarks⟩ := noteReports_of_tells (becomeStale_only n s) htells
  rw [hgroups] at hw
  exact ⟨_, hexec, (hch n).trans (if_pos rfl), fun m hne => (hch m).trans (if_neg hne), hw, hmarks⟩

end Sys2Proof.Machine

/-! SUPPORT. What the end of a cycle, the changes of the part state and an install leave alone (R97, R123, R169, R172, R173). -/
namespace Sys2Proof.Machine

/-- R97: the end of a cycle frees the M port and lands a write; the rest is an access's or the Loader's. -/
theorem memoryCycleEnd_only {s : State} {c : MCycle} (hc : s.cycle = some c) :
    OnlyAccess (s.cycleEnded c) (memoryCycleEnd s) := by
  unfold memoryCycleEnd
  rw [hc]
  dsimp only
  split
  · split
    · exact complete_only _ _ _ _ (s.cycleEnded c)
    · exact .refl (s.cycleEnded c)
  · exact loaderReadDone_only _ _ (s.cycleEnded c)
  · exact mirrorCycleDone_only (s.cycleEnded c)

theorem memoryCycleEnd_of_none {s : State} (hc : s.cycle = none) : memoryCycleEnd s = s := by
  rw [memoryCycleEnd, hc]

/-- R173: the start of holdover changes the part state, and what an access or the Loader may change. -/
theorem startHoldover_only (s : State) : OnlyAccess { s with partState := .holdover } (startHoldover s) := by
  have hstart := ((OnlyAccess.refl { s with partState := .holdover }).mark (.part 1)).offerBoth (holdoverRecord s)
  exact ((OnlyAccess.foldl _ (fun u g => (cancelGather_only u g).toAccess) _
    (OnlyAccess.foldl _ (fun u n => (abortPass_only u n).toAccess) _ hstart)).trans (abandonLoad_only _)).trans
      (takeHeld_only _)

/-- R172: a fall of PFAIL_N begins holdover, or changes that pin alone. -/
theorem powerFails_only (s : State) : ∃ x, (x = s.partState ∨ x = .holdover) ∧
    OnlyAccess { s with pins := { s.pins with pfailN := false }, partState := x } (powerFails s) := by
  unfold powerFails
  dsimp only
  split
  · exact ⟨.holdover, .inr rfl, startHoldover_only { s with pins := { s.pins with pfailN := false } }⟩
  · exact ⟨s.partState, .inl rfl, .refl _⟩

/-- R169, R172: the rise of RST_N samples the straps, and may begin holdover. -/
theorem leaveReset_only (m : BitVec 2) (c f : Bool) (s : State) : ∃ x, (x = s.partState ∨ x = .holdover) ∧
    OnlyAccess { sampleStraps m c f s with partState := x } (leaveReset m c f s) := by
  have harrive : ∀ u, OnlyAccess u (arrivalsAtRise u) := fun u =>
    (arriveIfRequested_only .A u).trans (arriveIfRequested_only .B _)
  unfold leaveReset
  dsimp only
  split
  · exact ⟨_, .inr rfl, (startHoldover_only _).trans (harrive _)⟩
  · exact ⟨_, .inl rfl, harrive _⟩

/-- After the new set is in force an install does what an access or the Loader may do. -/
theorem installed_only (l : Load) (s : State) : OnlyAccess (takeNewSet l s (endOldSet l s)) (installed l s) := by
  have hblocks : OnlyExchange (takeNewSet l s (endOldSet l s)) (settleBlocks l s (takeNewSet l s (endOldSet l s))) :=
    OnlyExchange.foldl _ (settleGroupBlock_only l s) _ (OnlyExchange.foldl _ (settleChanBlock_only l s) _ (.refl _))
  have hresumed := OnlyExchange.foldl _ (offerResumed_only l s) indices hblocks
  exact ((hresumed.toAccess.trans (reportLoadEnd_only l .ok Detail.nothing _)).mark (.part 4)).trans (continueLoader_only _)

theorem installLoad_eq (l : Load) (s : State) : installLoad l s = takeHeld (installed l s) := rfl

end Sys2Proof.Machine

/-! SUPPORT. What is due at a moment (R60, R63, R122), and what a take and a grant do to the Loader and to the accesses in
flight (R91, R111, R112). -/
namespace Sys2Proof.Machine

/-! ### What is due -/

/-- R122: the install is owed once a drain finds no access TAKEN or IN CYCLE. -/
theorem installOwed_iff {s : State} : installOwed s = true ↔
    (∃ l, s.loader = .draining l) ∧ ∀ p t, s.access p ≠ .taken t ∧ s.access p ≠ .inCycle t := by
  have hflight : ∀ p, (s.access p).inFlight = false ↔ ∀ t, s.access p ≠ .taken t ∧ s.access p ≠ .inCycle t := by
    intro p
    cases h : s.access p <;> simp [AccessState.inFlight]
  have hports : (∀ p t, s.access p ≠ .taken t ∧ s.access p ≠ .inCycle t) ↔
      (s.access .A).inFlight = false ∧ (s.access .B).inFlight = false := by
    rw [hflight, hflight]
    exact ⟨fun h => ⟨h .A, h .B⟩, fun h p => by cases p; exacts [h.1, h.2]⟩
  rw [hports]
  unfold installOwed
  cases s.loader <;> simp

theorem exec_of_due {s : State} {e : Instr} (h : e ∈ dueEvents s) : exec e s = .next (event (ownEvent e) s) := by
  rcases mem_dueEvents.1 h with ⟨rfl, hd⟩ | ⟨n, rfl, hd⟩ | ⟨n, rfl, hd⟩ | ⟨g, rfl, hd⟩ | ⟨g, rfl, hd⟩ | ⟨g, rfl, hd⟩ <;>
    exact exec_own rfl hd

theorem isReached_iff {s : State} {d : Option Deadline} : isReached d s.clock = true ↔ ReachedNow s d := by
  cases d <;> simp [isReached, ReachedNow, Deadline.reached]

theorem mem_dueEvents_iff_due {s : State} {e : Instr} : e ∈ dueEvents s ↔ Due s e := by
  rw [mem_dueEvents]
  cases e
  case install => simpa [Due] using installOwed_iff
  case fillExpiry n =>
    cases hc : s.channel? n with
    | none => simp [Due, fillDue, hc]
    | some c => cases hp : c.pass <;> simp [Due, fillDue, hc, hp, isReached_iff]
  case freshnessDeadlineReached n => cases hc : s.channel? n <;> simp [Due, freshDue, hc, isReached_iff]
  case pinRelease g =>
    cases hg : s.group? g with
    | none => simp [Due, holdDue, hg]
    | some gr => cases hp : gr.pin <;> simp [Due, holdDue, hg, hp, isReached_iff]
  case partialPublication g =>
    cases hg : s.group? g with
    | none => simp [Due, gatherDue, hg]
    | some gr => cases hq : gr.gather <;> simp [Due, gatherDue, hg, hq, isReached_iff]
  case frameTick g => cases hg : s.group? g <;> simp [Due, frameDue, hg]
  all_goals simp [Due]

theorem settled_iff {s : State} : settled s = true ↔ dueEvents s = [] := List.isEmpty_iff

theorem settleFor_of_settled (k : Nat) {s : State} (h : settled s = true) : settleFor k s = s := by
  cases k with
  | zero => rfl
  | succ k => simp [settleFor, settled_iff.1 h, pickFrom]

theorem reachedByDue_settleFor (k : Nat) (s : State) : ReachedByDue s (settleFor k s) := by
  induction k generalizing s with
  | zero => exact .refl s
  | succ k ih =>
    unfold settleFor
    split
    · rename_i e he
      have hdue := pickFrom_mem he
      exact .event e (mem_dueEvents_iff_due.1 hdue) (exec_of_due hdue) (ih _)
    · exact .refl s

/-! ### The Loader through a take (R95, R111, R112) -/

section Loader
variable {s t u : State}

/-- R111, R112: the Loader and the remembered request are as they were, or, out of HOLDOVER, the Loader is READING. -/
def LoaderTakes (s t : State) : Prop :=
  (t.loader = s.loader ∧ t.remembered = s.remembered) ∨ (s.partState ≠ .holdover ∧ ∃ l, t.loader = .reading l)

theorem OnlyExchange.loaderTakes (h : OnlyExchange s t) : LoaderTakes s t := .inl ⟨h.loader, h.remembered⟩

theorem LoaderTakes.trans (h : LoaderTakes s t) (hp : t.partState = s.partState) (k : LoaderTakes t u) : LoaderTakes s u := by
  rcases k with ⟨hl, hr⟩ | ⟨hne, hread⟩
  · rcases h with ⟨hl', hr'⟩ | ⟨hne, l, hread⟩
    · exact .inl ⟨hl.trans hl', hr.trans hr'⟩
    · exact .inr ⟨hne, l, hl.trans hread⟩
  · exact .inr ⟨hp ▸ hne, hread⟩

theorem loader_takeCommit (v : Word) (s : State) : LoaderTakes s (takeCommit v s) := by
  unfold takeCommit
  split
  · exact .inl ⟨rfl, rfl⟩
  · rename_i h
    split
    · exact .inr ⟨fun e => h (.inl e), _, rfl⟩
    · rename_i l hl
      exact .inr ⟨fun e => h (.inl e), l, hl⟩
    · exact .inl ⟨rfl, rfl⟩

theorem loader_handToOwner (x : Trigger) (v : Word) (s : State) : LoaderTakes s (handToOwner x v s) := by
  cases x with
  | commit => exact loader_takeCommit v s
  | enable y => exact .inl ⟨rfl, rfl⟩
  | ack y => exact .inl ⟨rfl, rfl⟩
  | jread y =>
    change LoaderTakes s (takeJread y v s)
    unfold takeJread
    split <;> exact .inl ⟨rfl, rfl⟩
  | rearm y => exact (rearm_only y v s).loaderTakes

theorem loader_take (p : Port) (d : Drive) (s : State) : LoaderTakes s (take p d s) := by
  have hact : ∀ o x, LoaderTakes s (actOnTake p d x o s) := by
    intro o x
    unfold actOnTake
    split
    · exact loader_handToOwner _ _ s
    · exact (violate_only _ _ _ _ _ s).loaderTakes
    · exact .inl ⟨rfl, rfl⟩
  suffices LoaderTakes s (decodeAndAct p d s).1 from this
  unfold decodeAndAct
  split
  · exact hact _ _
  · exact (takeChannel_only _ _ _ _ s).loaderTakes
  · exact hact _ _
  · exact .inl ⟨rfl, rfl⟩
  · exact .inl ⟨rfl, rfl⟩
  · exact .inl ⟨rfl, rfl⟩

theorem loader_takeHeld (s : State) : LoaderTakes s (takeHeld s) := by
  have hone : ∀ p v, LoaderTakes v (takeHeldOf p v) := fun p v => by
    unfold takeHeldOf
    split
    · exact loader_take _ _ v
    · exact .inl ⟨rfl, rfl⟩
  exact (hone .A s).trans (takeHeldOf_only .A s).partState (hone .B _)

end Loader

/-! ### Whether an install is owed (R98, R122) -/

section Owed
variable {s t : State}

theorem installOwed_eq_false_of_loader (h : ∀ l, s.loader ≠ .draining l) : installOwed s = false := by
  unfold installOwed
  split
  · rename_i l hl; exact absurd hl (h l)
  · rfl

theorem installOwed_congr (hl : t.loader = s.loader) (ha : ∀ p, (t.access p).inFlight = (s.access p).inFlight) :
    installOwed t = installOwed s := by
  unfold installOwed
  rw [hl, ha, ha]

/-- R98: a grant keeps every access in flight that is, and brings none. -/
theorem inFlight_grant (s : State) (p : Port) : ((grant s).access p).inFlight = (s.access p).inFlight := by
  have hports : (grant s).ports = onGrant s s.ports (portsGranted s) := rfl
  rw [State.access, hports]
  unfold onGrant
  split
  · rename_i r _
    unfold portsGranted
    cases r with
    | engine => rfl
    | port q =>
      dsimp only
      split
      · rename_i t ht
        change ((s.setAccess q (.inCycle t)).access p).inFlight = _
        by_cases h : p = q
        · rw [h, State.access_setAccess, ht]; rfl
        · rw [State.access_setAccess_other s h]
      · rfl
  · rfl

end Owed

end Sys2Proof.Machine

/-! SUPPORT. Deadlines and frame times that the clock has reached (R60, R63): what the part does forms none that is reached at
the moment it is formed. -/
namespace Sys2Proof.Machine

/-! ### What a channel or a group has reached (R60, R63) -/

/-- The fill deadline of the open pass is reached. -/
def Channel.fillReached (c : Channel) (now : Word) : Bool := isReached (c.pass.bind (·.deadline)) now

/-- The freshness deadline is reached, whatever the part state. -/
def Channel.freshReached (c : Channel) (now : Word) : Bool := isReached c.freshDl now

/-- The hold deadline of the pin is reached. -/
def Group.holdReached (gr : Group) (now : Word) : Bool := isReached (gr.pin.bind (·.deadline)) now

/-- The gather deadline is reached. -/
def Group.gatherReached (gr : Group) (now : Word) : Bool := isReached (gr.gather.bind (·.deadline)) now

/-- The group is TIMED and its next frame time has come, whatever the part state. -/
def Group.frameReached (gr : Group) (now : Word) : Bool := gr.desc.mode == some .timed && gr.nextFrame == some now

/-- What the part may still owe at this moment, whatever the part state: an install, and what the clock has reached. -/
def owes (s : State) : Instr → Bool
  | .install => installOwed s
  | .fillExpiry n => (s.channel? n).any (·.fillReached s.clock)
  | .freshnessDeadlineReached n => (s.channel? n).any (·.freshReached s.clock)
  | .pinRelease g => (s.group? g).any (·.holdReached s.clock)
  | .partialPublication g => (s.group? g).any (·.gatherReached s.clock)
  | .frameTick g => (s.group? g).any (·.frameReached s.clock)
  | _ => false

theorem owes_of_due {s : State} {e : Instr} (h : e ∈ dueEvents s) : owes s e = true := by
  rcases mem_dueEvents.1 h with ⟨rfl, hd⟩ | ⟨n, rfl, hd⟩ | ⟨n, rfl, hd⟩ | ⟨g, rfl, hd⟩ | ⟨g, rfl, hd⟩ | ⟨g, rfl, hd⟩
  · exact hd
  · unfold fillDue at hd
    cases hc : s.channel? n with
    | none => simp [hc] at hd
    | some c => cases hp : c.pass <;> simp_all [owes, Channel.fillReached]
  · unfold freshDue at hd
    cases hc : s.channel? n <;> simp_all [owes, Channel.freshReached]
  · unfold holdDue at hd
    cases hg : s.group? g with
    | none => simp [hg] at hd
    | some gr => cases hp : gr.pin <;> simp_all [owes, Group.holdReached]
  · unfold gatherDue at hd
    cases hg : s.group? g with
    | none => simp [hg] at hd
    | some gr => cases hp : gr.gather <;> simp_all [owes, Group.gatherReached]
  · unfold frameDue at hd
    cases hg : s.group? g <;> simp_all [owes, Group.frameReached]

theorem setWidth_ne_zero {x : BitVec 16} (h : x ≠ 0) : x.setWidth 32 ≠ 0#32 := by
  intro e
  apply h
  bv_omega

@[simp] theorem isReached_none (now : Word) : isReached none now = false := rfl

/-- R59, R60: a deadline formed now is not reached now. -/
@[simp] theorem isReached_formDeadline (limit : BitVec 16) (now : Word) : isReached (formDeadline now limit) now = false := by
  unfold formDeadline
  split
  · rfl
  · rename_i h
    simp [isReached, Deadline.reached, Ne.symm (setWidth_ne_zero h)]

/-- R62: a deadline formed afresh at an install is not reached at the install. -/
@[simp] theorem isReached_reformDeadline (start : Word) (limit : BitVec 16) (now : Word) :
    isReached (reformDeadline start limit now) now = false := by
  unfold reformDeadline
  split
  · rfl
  · split
    · rename_i h
      simp only [isReached, Deadline.reached, beq_eq_false_iff_ne]
      intro e
      rw [e] at h
      simp at h
      omega
    · simp [isReached, Deadline.reached]

/-- R62: a deadline that an install carries is reached only where it was. -/
theorem isReached_carryDeadline {d : Option Deadline} {o : Word} {old new : BitVec 16} {now : Word}
    (h : isReached (carryDeadline d o old new now) now = true) : isReached d now = true := by
  unfold carryDeadline at h
  split at h
  · exact h
  · rw [isReached_reformDeadline] at h
    cases h

/-- From `s` to `t` no deadline and no frame time has come to be reached. -/
structure NoneReached (s t : State) : Prop where
  clock : t.clock = s.clock
  owed : ∀ e, e ≠ .install → owes t e = true → owes s e = true

section NoneReached
variable {s t u : State}

theorem NoneReached.trans (h : NoneReached s t) (k : NoneReached t u) : NoneReached s u :=
  ⟨k.clock.trans h.clock, fun e he hu => h.owed e he (k.owed e he hu)⟩

theorem NoneReached.of_fields (hk : t.clock = s.clock) (hc : t.channels = s.channels) (hg : t.groups = s.groups) :
    NoneReached s t := by
  refine ⟨hk, fun e he h => ?_⟩
  cases e
  case install => exact absurd rfl he
  all_goals simpa only [owes, channel?_congr hc, group?_congr hg, hk] using h

theorem NoneReached.refl (s : State) : NoneReached s s := .of_fields rfl rfl rfl

theorem NoneReached.mark (h : NoneReached s t) (i : MirrorItem) : NoneReached s (t.mark i) :=
  h.trans (.of_fields rfl rfl rfl)
theorem NoneReached.raise (h : NoneReached s t) (p : Port) (c : Cause) : NoneReached s (t.raise p c) :=
  h.trans (.of_fields rfl rfl rfl)
theorem NoneReached.offer (h : NoneReached s t) (p : Port) (r : Record) : NoneReached s (t.offer p r) :=
  h.trans (.of_fields rfl rfl rfl)
theorem NoneReached.setAccess (h : NoneReached s t) (p : Port) (a : AccessState) : NoneReached s (t.setAccess p a) :=
  h.trans (.of_fields rfl rfl rfl)

/-- A place changed by `f` has nothing that it had not before, where `f` brings nothing. -/
theorem any_of_any_ite_map {α : Type} {o o' : Option α} {f : α → α} {P : α → Bool} {b : Prop} [Decidable b]
    (hf : ∀ c, o = some c → P (f c) = true → P c = true) (ho : b → o = o') (h : (if b then o.map f else o').any P = true) :
    o'.any P = true := by
  split at h
  · rename_i hb
    rw [← ho hb]
    cases o with
    | none => cases h
    | some c => exact hf c rfl h
  · exact h

theorem NoneReached.modChannel (h : NoneReached s t) (n : Nat) (f : Channel → Channel)
    (hfill : ∀ c, t.channel? n = some c → (f c).fillReached t.clock = true → c.fillReached t.clock = true := by
      exact fun _ _ h => h)
    (hfresh : ∀ c, t.channel? n = some c → (f c).freshReached t.clock = true → c.freshReached t.clock = true := by
      exact fun _ _ h => h) :
    NoneReached s (t.modChannel n f) := by
  refine h.trans ⟨rfl, fun e he hu => ?_⟩
  cases e
  case install => exact absurd rfl he
  case fillExpiry m =>
    simp only [owes, State.channel?_modChannel, State.modChannel_clock] at hu
    exact any_of_any_ite_map hfill (fun e => by rw [e]) hu
  case freshnessDeadlineReached m =>
    simp only [owes, State.channel?_modChannel, State.modChannel_clock] at hu
    exact any_of_any_ite_map hfresh (fun e => by rw [e]) hu
  all_goals exact hu

theorem NoneReached.modGroup (h : NoneReached s t) (g : Nat) (f : Group → Group)
    (hhold : ∀ gr, t.group? g = some gr → (f gr).holdReached t.clock = true → gr.holdReached t.clock = true := by
      exact fun _ _ h => h)
    (hgather : ∀ gr, t.group? g = some gr → (f gr).gatherReached t.clock = true → gr.gatherReached t.clock = true := by
      exact fun _ _ h => h)
    (hframe : ∀ gr, t.group? g = some gr → (f gr).frameReached t.clock = true → gr.frameReached t.clock = true := by
      exact fun _ _ h => h) :
    NoneReached s (t.modGroup g f) := by
  refine h.trans ⟨rfl, fun e he hu => ?_⟩
  cases e
  case install => exact absurd rfl he
  case pinRelease k =>
    simp only [owes, State.group?_modGroup, State.modGroup_clock] at hu
    exact any_of_any_ite_map hhold (fun e => by rw [e]) hu
  case partialPublication k =>
    simp only [owes, State.group?_modGroup, State.modGroup_clock] at hu
    exact any_of_any_ite_map hgather (fun e => by rw [e]) hu
  case frameTick k =>
    simp only [owes, State.group?_modGroup, State.modGroup_clock] at hu
    exact any_of_any_ite_map hframe (fun e => by rw [e]) hu
  all_goals exact hu

theorem NoneReached.foldl {β : Type} {f : State → β → State} (h : NoneReached s t) (hf : ∀ v b, NoneReached v (f v b))
    (bs : List β) : NoneReached s (bs.foldl f t) :=
  List.foldlRecOn (motive := NoneReached s) bs f h fun _ hu b _ => hu.trans (hf _ b)

/-! ### The part's own events bring nothing -/

theorem NoneReached.publishPending (h : NoneReached s t) (n : Nat) : NoneReached s (publishPending t n) := by
  unfold Machine.publishPending Machine.publish
  split
  · rename_i q _
    split
    · exact h
    · have hmod : NoneReached s (t.modChannel n fun c => c.published q.buf t.clock) :=
        h.modChannel n _ (hfresh := by simp [Channel.freshReached, Channel.published])
      dsimp only
      split
      · exact ((hmod.mark _).offer _ _).raise _ _
      · exact hmod.mark _
  · exact h

theorem NoneReached.publishMembers (h : NoneReached s t) (g : Nat) : NoneReached s (publishMembers g t) :=
  h.foldl (fun v n => (NoneReached.refl v).publishPending n) _

theorem NoneReached.endPass (h : NoneReached s t) (n : Nat) :
    NoneReached s (t.modChannel n fun c => { c with pass := none }) :=
  h.modChannel n _ (hfill := by simp [Channel.fillReached])

theorem NoneReached.faultPass (h : NoneReached s t) (n : Nat) (c : Channel) (p : FillPass) (e : Bool) (r : Record) :
    NoneReached s (faultPass n c p e r t) := by
  have hpass := ((((h.endPass n).mark (.chanBlock n)).offer c.desc.producer r).raise c.desc.producer .fillFault)
  unfold Machine.faultPass
  dsimp only
  split
  · exact ((hpass.modChannel n _).offer _ _).mark _
  · exact hpass

theorem NoneReached.expirePass (h : NoneReached s t) (n : Nat) : NoneReached s (expirePass n t) := by
  unfold Machine.expirePass
  split
  · exact h
  · rename_i c _
    split
    · exact h
    · rename_i p _
      exact h.faultPass n c p true _

theorem NoneReached.dropPin (h : NoneReached s t) (g : Nat) : NoneReached s (dropPin g t) := by
  refine NoneReached.mark (NoneReached.foldl (h.modGroup g _ (hhold := by simp [Group.holdReached]))
    (fun v m => ?_) (t.members g)) _
  unfold unpinMember
  split
  · split
    · exact ((NoneReached.refl v).modChannel m _).mark _
    · exact .refl v
  · exact .refl v

theorem NoneReached.releasePin (h : NoneReached s t) (g : Nat) (i : Bool) : NoneReached s (releasePin g i t) := by
  unfold Machine.releasePin
  split
  · exact h
  · exact ((h.dropPin g).offer _ _).raise _ _

theorem NoneReached.becomeStale (h : NoneReached s t) (n : Nat) : NoneReached s (becomeStale n t) := by
  unfold Machine.becomeStale
  split
  · exact h
  · exact ((h.modChannel n _ (hfresh := by simp [Channel.freshReached])).mark _).offer _ _

theorem NoneReached.partialPublication (h : NoneReached s t) (g : Nat) : NoneReached s (partialPublication g t) := by
  unfold Machine.partialPublication
  split
  · exact h
  · exact (((h.publishMembers g).offer _ _).modGroup g _ (hgather := by simp [Group.gatherReached])).mark _


/-- R37, R64: the frame tick of a group whose next frame time is now, with a period of at least 1. -/
theorem NoneReached.frameTick {g : Nat} {gr : Group} (h : NoneReached s t) (hg : t.group? g = some gr)
    (hnext : gr.nextFrame = some t.clock) : NoneReached s (frameTick g t) := by
  refine NoneReached.mark ((h.publishMembers g).modGroup g _ (hframe := fun k hk hreached => ?_)) _
  rw [group?_congr (groups_publishMembers g t), hg] at hk
  cases hk
  rw [(publishMembers_only g t).clock] at hreached ⊢
  simp only [Group.frameReached, Bool.and_eq_true] at hreached ⊢
  exact ⟨hreached.1, by simp [hnext]⟩

/-! ### Takes bring nothing -/

theorem NoneReached.takeProducerWrite (h : NoneReached s t) (n off : Nat) :
    NoneReached s (takeProducerWrite n off t).1 := by
  have hopen : NoneReached s (openPass n t) := by
    unfold openPass
    split
    · split
      · exact (h.modChannel n _ (hfill := by simp [Channel.fillReached, Channel.opened])).mark _
      · exact h
    · exact h
  unfold Machine.takeProducerWrite
  dsimp only
  split
  · exact hopen.modChannel n _ (hfill := fun c _ hc => by cases hp : c.pass <;> simp [Channel.fillReached, hp] at hc)
  · exact hopen

theorem NoneReached.takeConsumerRead (h : NoneReached s t) (n off : Nat) :
    NoneReached s (takeConsumerRead n off t).1 := by
  have hpin : ∀ v m, NoneReached v (pinMember v m) := by
    intro v m
    have hmod : NoneReached v (v.modChannel m Channel.pinned) := (NoneReached.refl v).modChannel m _
    unfold pinMember
    split
    · dsimp only
      split
      · exact hmod
      · exact hmod.mark _
    · exact .refl v
  have hopen : ∀ g, NoneReached s (openPin g t) := by
    intro g
    unfold openPin
    split
    · split
      · exact ((h.modGroup g _ (hhold := by simp [Group.holdReached])).mark _).foldl hpin _
      · exact h
    · exact h
  unfold Machine.takeConsumerRead
  split
  · exact h
  · dsimp only
    split
    · exact (hopen _).modGroup _ _ (hhold := fun gr _ hg => by cases hp : gr.pin <;> simp [Group.holdReached, hp] at hg)
    · exact hopen _

theorem groups_takeCommit (v : Word) (s : State) : (takeCommit v s).groups = s.groups := by
  unfold takeCommit
  split
  · rfl
  · split <;> rfl

theorem groups_takeJread (x : Port) (v : Word) (s : State) : (takeJread x v s).groups = s.groups := by
  unfold takeJread
  split <;> rfl

theorem NoneReached.rearm (h : NoneReached s t) (x : Port) (v : Word) : NoneReached s (rearm x v t) := by
  refine h.foldl (fun w n => ?_) indices
  rw [rearmOne_eq]
  split
  · exact ((NoneReached.refl w).modChannel n _).mark _
  · exact .refl w

theorem NoneReached.handToOwner (h : NoneReached s t) (x : Trigger) (v : Word) : NoneReached s (handToOwner x v t) := by
  cases x with
  | commit => exact h.trans (.of_fields (takeCommit_only v t).clock (channels_takeCommit v t) (groups_takeCommit v t))
  | enable y => exact h.trans (.of_fields rfl rfl rfl)
  | ack y => exact h.trans (.of_fields rfl rfl rfl)
  | jread y => exact h.trans (.of_fields (takeJread_only y v t).clock (channels_takeJread y v t) (groups_takeJread y v t))
  | rearm y => exact h.rearm y v

theorem NoneReached.take (h : NoneReached s t) (p : Port) (d : Drive) : NoneReached s (take p d t) := by
  have hact : ∀ o x, NoneReached s (actOnTake p d x o t) := by
    intro o x
    unfold actOnTake
    split
    · exact h.handToOwner _ _
    · exact (h.offer _ _).raise _ _
    · exact h
  refine NoneReached.setAccess ?_ p _
  unfold decodeAndAct
  split
  · exact hact _ _
  · unfold takeChannel
    split
    · exact h
    · split
      · split
        · exact h.takeProducerWrite _ _
        · exact h
      · split
        · exact (h.offer _ _).raise _ _
        · exact h.takeConsumerRead _ _
  · exact hact _ _
  · exact h
  · exact h
  · exact h

theorem NoneReached.takeHeld (h : NoneReached s t) : NoneReached s (takeHeld t) := by
  have hone : ∀ p v, NoneReached s v → NoneReached s (takeHeldOf p v) := fun p v hv => by
    unfold takeHeldOf
    split
    · exact hv.take _ _
    · exact hv
  exact hone .B _ (hone .A _ h)

end NoneReached

end Sys2Proof.Machine

/-! SUPPORT. The install forms no deadline and no frame time that is reached (R62, R64); each event that is due is owed no
longer once it has taken place, so that settling comes to its end (R60). -/
namespace Sys2Proof.Machine

section Settling
variable {s t : State}

/-! ### The install brings nothing -/

theorem NoneReached.endOldSet (h : NoneReached s t) (l : Load) : NoneReached s (endOldSet l t) := by
  have hchan : NoneReached t (indices.foldl (endChannel l t) t) :=
    .of_fields (OnlyExchange.foldl _ (endChannel_only l t) _ (.refl t)).clock
      (foldl_field State.channels _ (channels_endChannel l t) _ t) (foldl_field State.groups _ (groups_endChannel l t) _ t)
  refine (h.trans hchan).foldl (fun v g => ?_) indices
  have hdrop : ∀ w n, NoneReached w (dropMemberPending l t w n) := by
    intro w n
    unfold dropMemberPending
    split
    · exact .refl w
    · split
      · split
        · exact ((NoneReached.refl w).modChannel n _).offer _ _
        · exact .refl w
      · exact .refl w
  unfold endGroup
  split
  · exact .refl v
  · split
    · exact .refl v
    · exact ((NoneReached.refl v).releasePin g true).foldl hdrop _

theorem Channel.fillReached_carried {c : Channel} {d : ChanDesc} {now : Word}
    (h : (c.carried d now).fillReached now = true) : c.fillReached now = true := by
  cases hp : c.pass with
  | none => simp [Channel.fillReached, Channel.carried, hp] at h
  | some q =>
    simp only [Channel.fillReached, Channel.carried, hp, Option.map_some, Option.bind_some] at h ⊢
    exact isReached_carryDeadline h

theorem Channel.freshReached_carried (c : Channel) (d : ChanDesc) (now : Word) :
    (c.carried d now).freshReached now = false := by
  cases hc : c.cond <;> simp [Channel.freshReached, Channel.carried, hc]

theorem Group.holdReached_carried {gr : Group} {d : GroupDesc} {now : Word}
    (h : (gr.carried d now).holdReached now = true) : gr.holdReached now = true := by
  cases hp : gr.pin with
  | none => simp [Group.holdReached, Group.carried, hp] at h
  | some q =>
    simp only [Group.holdReached, Group.carried, hp, Option.map_some, Option.bind_some] at h ⊢
    exact isReached_carryDeadline h

theorem Group.gatherReached_carried {gr : Group} {d : GroupDesc} {now : Word}
    (h : (gr.carried d now).gatherReached now = true) : gr.gatherReached now = true := by
  cases hq : gr.gather with
  | none => simp [Group.gatherReached, Group.carried, hq] at h
  | some q =>
    simp only [Group.gatherReached, Group.carried, hq, Option.map_some, Option.bind_some] at h ⊢
    exact isReached_carryDeadline h

/-- R64, R118: the first frame of a created TIMED group lies ahead. -/
theorem firstFrame_ne {d : GroupDesc} (h : d.mode = some .timed → d.period ≠ 0) (now : Word) :
    firstFrame d now ≠ some now := by
  unfold firstFrame
  split
  · rename_i hm
    intro e
    refine setWidth_ne_zero (x := if d.phase = 0 then d.period else d.phase) ?_ (by simpa using e)
    split
    · exact h hm
    · assumption
  · simp


section NewSet
variable {l : Load} {n : Nat}

theorem fillReached_newChannel (h : (newChannel l s t n).any (·.fillReached t.clock) = true) :
    (t.channel? n).any (·.fillReached t.clock) = true := by
  unfold newChannel at h
  split at h
  · cases hc : t.channel? n with
    | none => simp [hc] at h
    | some c => exact Channel.fillReached_carried (by simpa [hc] using h)
  · split at h
    · simp [Channel.fillReached, Channel.created] at h
    · cases h

theorem freshReached_newChannel : (newChannel l s t n).any (·.freshReached t.clock) = false := by
  unfold newChannel
  split
  · cases hc : t.channel? n with
    | none => rfl
    | some c => exact Channel.freshReached_carried c _ _
  · split
    · simp [Channel.freshReached, Channel.created]
    · rfl

theorem holdReached_newGroup (h : (newGroup l s t n).any (·.holdReached t.clock) = true) :
    (t.group? n).any (·.holdReached t.clock) = true := by
  unfold newGroup at h
  split at h
  · cases hg : t.group? n with
    | none => simp [hg] at h
    | some gr => exact Group.holdReached_carried (by simpa [hg] using h)
  · split at h
    · simp [Group.holdReached, Group.created] at h
    · cases h

theorem gatherReached_newGroup (h : (newGroup l s t n).any (·.gatherReached t.clock) = true) :
    (t.group? n).any (·.gatherReached t.clock) = true := by
  unfold newGroup at h
  split at h
  · cases hg : t.group? n with
    | none => simp [hg] at h
    | some gr => exact Group.gatherReached_carried (by simpa [hg] using h)
  · split at h
    · simp [Group.gatherReached, Group.created] at h
    · cases h

/-- R64, R127: a carried group keeps its mode and its next frame time, and a created one has its first frame later. -/
theorem frameReached_newGroup (hl : l.Chained) (hn : n < 24)
    (h : (newGroup l s (endOldSet l s) n).any (·.frameReached s.clock) = true) :
    (s.group? n).any (·.frameReached s.clock) = true := by
  unfold newGroup at h
  split at h
  · rename_i hcar
    obtain ⟨gr, hgr, -, hw0, -⟩ := carriesGroup_iff.1 hcar
    have hmode : (l.group n).mode = gr.desc.mode := by rw [GroupDesc.mode, hw0, GroupDesc.mode]
    rw [group?_endOldSet_of_carried hcar, hgr] at h
    rw [hgr]
    simpa [Group.frameReached, Group.carried, hmode] using h
  · split at h
    · rename_i hvalid
      simp [Group.frameReached, Group.created, clock_endOldSet, firstFrame_ne (hl.periods n hn hvalid)] at h
    · cases h

theorem any_channel?_installed {P : Channel → Bool} (h : ((installed l s).channel? n).any P = true) :
    (newChannel l s (endOldSet l s) n).any P = true := by
  obtain ⟨c, hc, -⟩ := (Option.any_eq_true _ _).1 h
  rwa [channel?_installed (State.channel?_lt hc)] at h

theorem any_group?_installed {P : Group → Bool} (h : ((installed l s).group? n).any P = true) :
    n < 24 ∧ (newGroup l s (endOldSet l s) n).any P = true := by
  obtain ⟨c, hc, -⟩ := (Option.any_eq_true _ _).1 h
  exact ⟨State.group?_lt hc, by rwa [group?_installed (State.group?_lt hc)] at h⟩

theorem clock_installed : (installed l s).clock = s.clock := (installed_only l s).clock.trans clock_endOldSet

/-- R124 to R128: the channels and groups of the new set have reached nothing but what the old ones had. -/
theorem noneReached_installed (hl : l.Chained) : NoneReached s (installed l s) := by
  have hend := (NoneReached.refl s).endOldSet l
  refine ⟨clock_installed, fun e he h => ?_⟩
  cases e
  case install => exact absurd rfl he
  case fillExpiry n =>
    have hnew := any_channel?_installed h
    rw [clock_installed, ← hend.clock] at hnew
    exact hend.owed _ he (fillReached_newChannel hnew)
  case freshnessDeadlineReached n =>
    have hnew := any_channel?_installed h
    rw [clock_installed, ← hend.clock, freshReached_newChannel] at hnew
    cases hnew
  case pinRelease g =>
    have hnew := (any_group?_installed h).2
    rw [clock_installed, ← hend.clock] at hnew
    exact hend.owed _ he (holdReached_newGroup hnew)
  case partialPublication g =>
    have hnew := (any_group?_installed h).2
    rw [clock_installed, ← hend.clock] at hnew
    exact hend.owed _ he (gatherReached_newGroup hnew)
  case frameTick g =>
    obtain ⟨hg, hnew⟩ := any_group?_installed h
    rw [clock_installed] at hnew
    exact frameReached_newGroup hl hg hnew
  all_goals exact h

end NewSet

/-! ### An event that is due is owed no longer -/

/-- The marks of the report words and the grant of an event change nothing that is owed. -/
theorem owes_event (f : State → State) (s : State) (e : Instr) : owes (event f s) e = owes (f s) e := by
  have hclock : (event f s).clock = (f s).clock := (event_only f s).clock
  have hgroups : (event f s).groups = (f s).groups := groups_noteReports s (f s)
  cases e
  case install =>
    refine installOwed_congr (noteReports_only s (f s)).loader fun p => ?_
    rw [event, inFlight_grant, State.access, ungranted, (noteReports_only s (f s)).ports, State.access]
  all_goals simp only [owes, channel?_congr (channels_event f s), group?_congr hgroups, hclock]

/-- R113: no drain runs after an install and the takes that follow it. -/
theorem installOwed_takeHeld_installed (l : Load) : installOwed (takeHeld (installed l s)) = false := by
  refine installOwed_eq_false_of_loader fun l' hl' => ?_
  rcases loader_takeHeld (installed l s) with ⟨hl, -⟩ | ⟨-, k, hk⟩
  · exact loader_installed l' (hl.symm.trans hl')
  · cases hk.symm.trans hl'

/-- An event of the exchange unit that is due brings nothing, and is owed no longer. -/
theorem exchangeEvent_settles {e : Instr} (ho : OnlyExchange s t) (h : NoneReached s t) (he : owes t e = false) :
    (∀ e', owes t e' = true → owes s e' = true) ∧ owes t e = false := by
  refine ⟨fun e' h' => ?_, he⟩
  by_cases hi : e' = .install
  · subst hi
    rwa [owes, installOwed_congr ho.loader fun p => by rw [State.access, ho.ports, State.access]] at h'
  · exact h.owed e' hi h'

/-- An event that is due brings nothing, and is owed no longer. -/
theorem ownEvent_settles (hframe : FrameLaw s) {e : Instr} (h : e ∈ dueEvents s) :
    (∀ e', owes (ownEvent e s) e' = true → owes s e' = true) ∧ owes (ownEvent e s) e = false := by
  have howed := owes_of_due h
  rcases mem_dueEvents.1 h with ⟨rfl, hd⟩ | ⟨n, rfl, hd⟩ | ⟨n, rfl, hd⟩ | ⟨g, rfl, hd⟩ | ⟨g, rfl, hd⟩ | ⟨g, rfl, hd⟩
  · obtain ⟨l, hl⟩ : ∃ l, s.loader = .draining l := by
      unfold installOwed at hd
      split at hd
      · exact ⟨_, by assumption⟩
      · cases hd
    obtain ⟨fitted, hvalid⟩ := hframe.2 l hl
    have hinstall : ownEvent .install s = takeHeld (installed l s) := by
      change install s = _
      rw [install, hl]
      exact if_pos hd
    have hnone := installOwed_takeHeld_installed (s := s) l
    rw [hinstall]
    refine ⟨fun e' h' => ?_, hnone⟩
    by_cases hi : e' = .install
    · subst hi; exact howed
    · exact (noneReached_installed (Load.chained_of_validate hvalid)).takeHeld.owed e' hi h'
  · refine exchangeEvent_settles (expirePass_only n s) ((NoneReached.refl s).expirePass n) ?_
    change owes (expirePass n s) _ = false
    unfold fillDue at hd
    cases hc : s.channel? n with
    | none => simp [hc] at hd
    | some c =>
      cases hp : c.pass with
      | none => simp [hc, hp] at hd
      | some q => simp [owes, expirePass_eq hc hp, channel?_faultPass hc, Channel.fillReached]
  · refine exchangeEvent_settles (becomeStale_only n s) ((NoneReached.refl s).becomeStale n) ?_
    change owes (becomeStale n s) _ = false
    cases hc : s.channel? n with
    | none => simp [owes, hc] at howed
    | some c => simp [owes, becomeStale, hc, Channel.freshReached]
  · refine exchangeEvent_settles (releasePin_only g false s) ((NoneReached.refl s).releasePin g false) ?_
    change owes (releasePin g false s) _ = false
    unfold releasePin
    split
    · rename_i hp
      cases hg : s.group? g with
      | none => simp [owes, hg] at howed ⊢
      | some gr => simp_all [owes, Group.holdReached]
    · cases hg : s.group? g <;> simp [owes, group?_dropPin, hg, Group.holdReached]
  · refine exchangeEvent_settles (partialPublication_only g s) ((NoneReached.refl s).partialPublication g) ?_
    change owes (partialPublication g s) _ = false
    unfold partialPublication
    split
    · rename_i hp
      cases hg : s.group? g with
      | none => simp [owes, hg] at howed ⊢
      | some gr => simp_all [owes, Group.gatherReached]
    · cases hg : s.group? g <;>
        simp [owes, endGather, group?_congr (groups_publishMembers g s), hg, Group.gatherReached]
  · cases hg : s.group? g with
    | none => simp [owes, hg] at howed
    | some gr =>
      obtain ⟨hmode, hnext⟩ : gr.desc.mode = some .timed ∧ gr.nextFrame = some s.clock := by
        simpa [owes, hg, Group.frameReached] using howed
      refine exchangeEvent_settles (frameTick_only g s) ((NoneReached.refl s).frameTick hg hnext) ?_
      change owes (frameTick g s) _ = false
      have hperiod := setWidth_ne_zero (hframe.1 g gr hg hmode)
      simp [owes, frameTick, group?_congr (groups_publishMembers g s), hg, Group.frameReached, hnext,
        (publishMembers_only g s).clock, hperiod]

/-! ### How much the part owes -/

/-- The events that the part can bring about at one moment. -/
def ownEvents : List Instr :=
  .install :: (indices.map .fillExpiry ++ indices.map .freshnessDeadlineReached ++ indices.map .pinRelease ++
    indices.map .partialPublication ++ indices.map .frameTick)

/-- How much the part may still owe. -/
def owedCount (s : State) : Nat := (ownEvents.filter (owes s)).length

theorem owedCount_le (s : State) : owedCount s ≤ maxDue := List.length_filter_le _ _

theorem mem_ownEvents {e : Instr} (h : e ∈ dueEvents s) : e ∈ ownEvents := by
  simp only [ownEvents, List.mem_cons, List.mem_append, List.mem_map, mem_indices]
  rcases mem_dueEvents.1 h with ⟨rfl, hd⟩ | ⟨n, rfl, hd⟩ | ⟨n, rfl, hd⟩ | ⟨g, rfl, hd⟩ | ⟨g, rfl, hd⟩ | ⟨g, rfl, hd⟩
  · simp
  · simpa using fillDue_lt hd
  · simpa using freshDue_lt hd
  · simpa using holdDue_lt hd
  · simpa using gatherDue_lt hd
  · simpa using frameDue_lt hd

theorem owedCount_lt {e : Instr} (he : e ∈ ownEvents) (hs : owes s e = true) (ht : owes t e = false)
    (h : ∀ e, owes t e = true → owes s e = true) : owedCount t < owedCount s := by
  have hsub : ownEvents.filter (owes t) = (ownEvents.filter (owes s)).filter (owes t) := by
    rw [List.filter_filter]
    refine List.filter_congr fun e _ => ?_
    cases ht : owes t e
    · rfl
    · simp [h e ht]
  unfold owedCount
  rw [hsub]
  exact List.length_filter_lt_length_iff_exists.2 ⟨e, List.mem_filter.2 ⟨he, hs⟩, by simp [ht]⟩

theorem frameLaw_event (h : FrameLaw s) (e : Instr) : FrameLaw (event (ownEvent e) s) := by
  by_cases he : e = .install
  · subst he
    exact (setLaw_frameLaw.install h).sameSet (SameSet.refl _).event
  · exact h.sameSet ((SameSet.refl s).ownEvent he).event

/-- Each event that is due leaves less owed. -/
theorem owedCount_event_lt (h : FrameLaw s) {e : Instr} (he : e ∈ dueEvents s) :
    owedCount (event (ownEvent e) s) < owedCount s := by
  obtain ⟨hkeep, hdone⟩ := ownEvent_settles h he
  exact owedCount_lt (mem_ownEvents he) (owes_of_due he) ((owes_event _ s e).trans hdone)
    fun e' h' => hkeep e' (by rwa [owes_event] at h')

theorem pickFrom_eq_none {α : Type} {k : Nat} {xs : List α} (h : pickFrom k xs = none) : xs = [] := by
  unfold pickFrom at h
  split at h
  · rfl
  · cases h
  · rename_i x rest _
    have hlt : k % (rest.length + 1) < rest.length + 1 := Nat.mod_lt k (Nat.succ_pos _)
    rw [List.getElem?_eq_none_iff] at h
    simp only [List.length_cons] at h
    omega

theorem settled_settleFor (k : Nat) (h : FrameLaw s) (hk : owedCount s ≤ k) : settled (settleFor k s) = true := by
  induction k generalizing s with
  | zero =>
    rw [settled_iff, settleFor, List.eq_nil_iff_forall_not_mem]
    intro e he
    have := owedCount_event_lt h he
    omega
  | succ k ih =>
    unfold settleFor
    split
    · rename_i e hpick
      have he := pickFrom_mem hpick
      have hlt := owedCount_event_lt h he
      exact ih (frameLaw_event h e) (by omega)
    · rename_i hpick
      rw [settled_iff]
      exact pickFrom_eq_none hpick


end Settling

/-- Settles O3: settling acts on members of `dueEvents` alone, and each leaves less owed, of which there are at most
`maxDue`. -/
theorem nothingDueSettlesToItself : Obligations.NothingDueSettlesToItself := by
  refine ⟨fun s => ?_, fun s h => settleFor_of_settled _ h, fun s => reachedByDue_settleFor _ s,
    fun s h => settled_settleFor _ h (owedCount_le s)⟩
  rw [settled_iff, List.eq_nil_iff_forall_not_mem]
  exact forall_congr' fun e => not_congr mem_dueEvents_iff_due

end Sys2Proof.Machine

/-! SUPPORT. The record of who has been passed by whom (R133): every operation leaves it alone but an install, which drops
entries of blocks that end, and a grant that starts an item. -/
namespace Sys2Proof.Machine

/-! ### The exchange unit -/

/-- R133: the record of who has been passed by whom. -/
def State.passed (s : State) : List (MirrorItem × MirrorItem) := s.mirror.passed

@[simp] theorem passed_mark (s : State) (i : MirrorItem) : (s.mark i).passed = s.passed := by
  unfold State.passed State.mark Mirror.mark
  split
  · split <;> rfl
  · rfl

@[simp] theorem passed_raise (s : State) (p : Port) (c : Cause) : (s.raise p c).passed = s.passed := rfl
@[simp] theorem passed_modChannel (s : State) (n : Nat) (f : Channel → Channel) : (s.modChannel n f).passed = s.passed := rfl
@[simp] theorem passed_modGroup (s : State) (g : Nat) (f : Group → Group) : (s.modGroup g f).passed = s.passed := rfl
@[simp] theorem passed_setAccess (s : State) (p : Port) (a : AccessState) : (s.setAccess p a).passed = s.passed := rfl

@[simp] theorem passed_offer (s : State) (p : Port) (r : Record) : (s.offer p r).passed = s.passed :=
  foldl_field State.passed State.mark passed_mark (offerMarks p (s.journals.get p) ((s.journals.get p).offer r s.clock)) s

@[simp] theorem passed_offerBoth (s : State) (r : Record) : (s.offerBoth r).passed = s.passed := by simp [State.offerBoth]

@[simp] theorem passed_publish (n b : Nat) (q x : Word) (s : State) : (publish n b q x s).passed = s.passed := by
  unfold publish
  split
  · rfl
  · dsimp only
    split <;> simp

@[simp] theorem passed_publishMembers (g : Nat) (s : State) : (publishMembers g s).passed = s.passed := by
  refine foldl_field State.passed publishPending (fun s n => ?_) _ s
  unfold publishPending
  split <;> simp

@[simp] theorem passed_endGather (g : Nat) (s : State) : (endGather g s).passed = s.passed := by simp [endGather]

@[simp] theorem passed_memberGained (g : Nat) (s : State) : (memberGained g s).passed = s.passed := by
  have hstart : (startGather g s).passed = s.passed := by
    unfold startGather
    split
    · split <;> simp
    · rfl
  unfold memberGained completeGather
  split
  · split <;> simp [hstart]
  · rfl

@[simp] theorem passed_faultPass (n : Nat) (c : Channel) (p : FillPass) (e : Bool) (r : Record) (s : State) :
    (faultPass n c p e r s).passed = s.passed := by
  unfold faultPass haltChannel
  dsimp only
  split <;> simp

@[simp] theorem passed_pendBuffer (n b : Nat) (c : Channel) (q : FillPass) (s : State) :
    (pendBuffer n b c q s).passed = s.passed := by
  unfold pendBuffer supersede
  split <;> simp

@[simp] theorem passed_closePass (n : Nat) (seq : Word) (s : State) : (closePass n seq s).passed = s.passed := by
  unfold closePass
  split
  · rfl
  · split
    · rfl
    · split
      · split
        · simp [closeShed_eq]
        · split
          · simp [closeIntoLive]
          · simp [closeIntoPending_eq]
      · rfl

@[simp] theorem passed_dropPin (g : Nat) (s : State) : (dropPin g s).passed = s.passed := by
  have hone : ∀ s n, (unpinMember s n).passed = s.passed := by
    intro s n
    unfold unpinMember
    split
    · split <;> simp
    · rfl
  simp [dropPin, foldl_field State.passed unpinMember hone]

@[simp] theorem passed_closePin (g : Nat) (s : State) : (closePin g s).passed = s.passed := by
  unfold closePin
  split
  · rfl
  · dsimp only
    split <;> simp

@[simp] theorem passed_releasePin (g : Nat) (i : Bool) (s : State) : (releasePin g i s).passed = s.passed := by
  unfold releasePin
  split <;> simp

@[simp] theorem passed_taintPin (g : Nat) (s : State) : (taintPin g s).passed = s.passed := by
  unfold taintPin
  split
  · rfl
  · split <;> simp

@[simp] theorem passed_exchangeStep (t : Taken) (e : Lanes) (s : State) : (exchangeStep t e s).passed = s.passed := by
  unfold exchangeStep exchangeCompletion
  split
  · split
    · split
      · split <;> simp
      · rfl
    · split
      · rfl
      · dsimp only
        split <;> split <;> simp
  · rfl

theorem passed_ownEvent {e : Instr} (he : e ≠ .install) (s : State) : (ownEvent e s).passed = s.passed := by
  cases e
  case install => exact absurd rfl he
  case fillExpiry n =>
    change (expirePass n s).passed = s.passed
    unfold expirePass
    split
    · rfl
    · split
      · rfl
      · exact passed_faultPass _ _ _ true _ s
  case freshnessDeadlineReached n =>
    change (becomeStale n s).passed = s.passed
    unfold becomeStale
    split <;> simp
  case pinRelease g => exact passed_releasePin g false s
  case partialPublication g =>
    change (partialPublication g s).passed = s.passed
    unfold partialPublication
    split <;> simp
  case frameTick g => simp [ownEvent, frameTick]
  all_goals rfl

/-! ### Takes -/

theorem passed_takeProducerWrite (n off : Nat) (s : State) : (takeProducerWrite n off s).1.passed = s.passed := by
  have hopen : (openPass n s).passed = s.passed := by
    unfold openPass
    split
    · split <;> simp
    · rfl
  unfold takeProducerWrite
  dsimp only
  split <;> simp [cancelFillDeadline, hopen]

theorem passed_takeConsumerRead (n off : Nat) (s : State) : (takeConsumerRead n off s).1.passed = s.passed := by
  have hpin : ∀ s n, (pinMember s n).passed = s.passed := by
    intro s n
    unfold pinMember
    split
    · dsimp only
      split <;> simp
    · rfl
  have hopen : ∀ g, (openPin g s).passed = s.passed := by
    intro g
    unfold openPin
    split
    · split
      · simp [foldl_field State.passed pinMember hpin]
      · rfl
    · rfl
  unfold takeConsumerRead
  split
  · rfl
  · dsimp only
    split <;> simp [cancelHoldDeadline, hopen]

theorem passed_handToOwner (x : Trigger) (v : Word) (s : State) : (handToOwner x v s).passed = s.passed := by
  cases x with
  | commit =>
    change (takeCommit v s).passed = s.passed
    unfold takeCommit
    split
    · rfl
    · split
      · exact passed_mark _ _
      · exact passed_mark _ _
      · rfl
  | enable y => exact passed_mark _ _
  | ack y => exact passed_mark _ _
  | jread y =>
    change (takeJread y v s).passed = s.passed
    unfold takeJread
    split
    · exact passed_mark _ _
    · exact passed_mark _ _
  | rearm y =>
    refine foldl_field State.passed (rearmOne y v) (fun s n => ?_) indices s
    rw [rearmOne_eq]
    split <;> simp

@[simp] theorem passed_take (p : Port) (d : Drive) (s : State) : (take p d s).passed = s.passed := by
  have hact : ∀ o x, (actOnTake p d x o s).passed = s.passed := by
    intro o x
    unfold actOnTake
    split
    · exact passed_handToOwner _ _ s
    · simp [violate]
    · rfl
  suffices (decodeAndAct p d s).1.passed = s.passed from this
  unfold decodeAndAct
  split
  · exact hact _ _
  · unfold takeChannel
    split
    · rfl
    · split
      · split
        · exact passed_takeProducerWrite _ _ s
        · rfl
      · split
        · simp [violate]
        · exact passed_takeConsumerRead _ _ s
  · exact hact _ _
  · rfl
  · rfl
  · rfl

@[simp] theorem passed_arriveIfRequested (p : Port) (s : State) : (arriveIfRequested p s).passed = s.passed := by
  unfold arriveIfRequested arrive
  split
  · split <;> simp
  · rfl

@[simp] theorem passed_present (p : Port) (d : Drive) (s : State) : (present p d s).passed = s.passed := by
  have hdrive : (drivePort p d s).passed = s.passed := rfl
  unfold present
  split <;> simp [hdrive]

@[simp] theorem passed_takeHeld (s : State) : (takeHeld s).passed = s.passed := by
  have hone : ∀ p s, (takeHeldOf p s).passed = s.passed := by
    intro p s
    unfold takeHeldOf
    split <;> simp
  simp [takeHeld, hone]

@[simp] theorem passed_dropReq (p : Port) (s : State) : (dropReq p s).passed = s.passed := by
  unfold dropReq
  split <;> rfl

/-! ### Completions, the Loader, the Mirror -/

@[simp] theorem passed_noteReports (b s : State) : (noteReports b s).passed = s.passed := by
  unfold noteReports noteReport
  split <;> split <;> simp

@[simp] theorem passed_complete (p : Port) (t : Taken) (w : Word) (e : Lanes) (s : State) :
    (complete p t w e s).passed = s.passed := by
  have hparity : (reportParity p t e s).passed = s.passed := by
    unfold reportParity
    split
    · split <;> simp
    · rfl
  unfold complete completionEffects finishPort
  split <;> simp [hparity]

@[simp] theorem passed_completeCycleless (p : Port) (s : State) : (completeCycleless p s).passed = s.passed := by
  unfold completeCycleless
  split
  · split <;> simp
  · rfl

@[simp] theorem passed_reportLoadEnd (l : Load) (c : ResultCode) (d : Detail) (s : State) :
    (reportLoadEnd l c d s).passed = s.passed := by
  have hresult : ({ s with lastResult := { gen := l.gen, code := c, detail := d } } : State).passed = s.passed := rfl
  simp [reportLoadEnd, State.raiseBoth, hresult]

@[simp] theorem passed_continueLoader (s : State) : (continueLoader s).passed = s.passed := by
  unfold continueLoader
  split <;> exact passed_mark _ _

theorem passed_finishReading (l : Load) (s : State) : (finishReading l s).passed = s.passed := by
  unfold finishReading
  split
  · simp [failLoad]
  · exact passed_mark _ _

@[simp] theorem passed_loaderReadDone (w : Word) (e : Lanes) (s : State) : (loaderReadDone w e s).passed = s.passed := by
  unfold loaderReadDone tableReadDone resumeReadDone
  split
  · split
    · split
      · simp [failLoad]
      · dsimp only
        split
        · rfl
        · split
          · exact passed_finishReading _ s
          · rfl
    · dsimp only
      split
      · rfl
      · exact passed_finishReading _ s
  · rfl

@[simp] theorem passed_mirrorCycleDone (s : State) : (mirrorCycleDone s).passed = s.passed := by
  unfold mirrorCycleDone itemCompleted
  split
  · split
    · rfl
    · split
      · exact passed_mark _ _
      · rfl
      · rfl
      · rfl
  · rfl

@[simp] theorem passed_memoryCycleEnd (s : State) : (memoryCycleEnd s).passed = s.passed := by
  unfold memoryCycleEnd
  split
  · rfl
  · rename_i c _
    have hended : ({ s with cycle := none, mem := cycleMem s.mem c } : State).passed = s.passed := rfl
    dsimp only
    split
    · split <;> simp [hended]
    · simp [hended]
    · simp [hended]

@[simp] theorem passed_clockEdge (s : State) : (clockEdge s).passed = s.passed := by
  unfold clockEdge
  split
  · split <;> rfl
  · rfl

@[simp] theorem passed_startHoldover (s : State) : (startHoldover s).passed = s.passed := by
  have habort : ∀ s n, (abortPass s n).passed = s.passed := by
    intro s n
    unfold abortPass
    split
    · rfl
    · split <;> simp
  have hcancel : ∀ s g, (cancelGather s g).passed = s.passed := by
    intro s g
    unfold cancelGather
    split <;> simp
  have habandon : ∀ s, (abandonLoad s).passed = s.passed := by
    intro s
    have hidle : ({ s with loader := .idle, remembered := none } : State).passed = s.passed := rfl
    unfold abandonLoad
    split <;> simp [hidle]
  have hstate : ({ s with partState := .holdover } : State).passed = s.passed := rfl
  simp [startHoldover, habandon, foldl_field State.passed cancelGather hcancel,
    foldl_field State.passed abortPass habort, hstate]

@[simp] theorem passed_powerFails (s : State) : (powerFails s).passed = s.passed := by
  have hpin : ({ s with pins := { s.pins with pfailN := false } } : State).passed = s.passed := rfl
  unfold powerFails
  dsimp only
  split <;> simp [hpin]

@[simp] theorem passed_leaveReset (m : BitVec 2) (c f : Bool) (s : State) : (leaveReset m c f s).passed = s.passed := by
  have hstraps : (sampleStraps m c f s).passed = s.passed := rfl
  unfold leaveReset arrivalsAtRise
  split <;> simp [hstraps]

/-! ### Install -/

theorem passed_endOldSet (l : Load) (s : State) : (endOldSet l s).passed = s.passed := by
  have hchan : ∀ u n, (endChannel l s u n).passed = u.passed := by
    intro u n
    unfold endChannel
    split
    · rfl
    · split
      · rfl
      · dsimp only
        split <;> split <;> simp
  have hdrop : ∀ u n, (dropMemberPending l s u n).passed = u.passed := by
    intro u n
    unfold dropMemberPending
    split
    · rfl
    · split
      · split <;> simp
      · rfl
  have hgroup : ∀ u g, (endGroup l s u g).passed = u.passed := by
    intro u g
    unfold endGroup
    split
    · rfl
    · split
      · rfl
      · simp [foldl_field State.passed _ hdrop]
  rw [endOldSet, foldl_field State.passed _ hgroup, foldl_field State.passed _ hchan]

theorem passed_settleBlock (i : MirrorItem) (ended installed : Bool) (s : State) :
    (s.settleBlock i ended installed).passed ⊆ s.passed := by
  have hunmark : ({ s with mirror := s.mirror.unmark i } : State).passed ⊆ s.passed :=
    List.filter_sublist.subset
  unfold State.settleBlock
  dsimp only
  split <;> split <;> simp [hunmark]

theorem passed_installed (l : Load) (s : State) : (installed l s).passed ⊆ s.passed := by
  have hset : (takeNewSet l s (endOldSet l s)).passed = s.passed := passed_endOldSet l s
  have hfold : ∀ (f : State → Nat → State), (∀ u n, (f u n).passed ⊆ u.passed) → ∀ u, (indices.foldl f u).passed ⊆ u.passed :=
    fun f hf u => List.foldlRecOn (motive := fun v : State => v.passed ⊆ u.passed) indices f (List.Subset.refl _)
      fun v hv n _ => List.Subset.trans (hf v n) hv
  have hresumed : ∀ u n, (offerResumed l s u n).passed = u.passed := by
    intro u n
    unfold offerResumed
    split
    · split <;> simp
    · rfl
  unfold installed settleBlocks
  rw [passed_continueLoader, passed_mark, passed_reportLoadEnd, foldl_field State.passed _ hresumed, ← hset]
  exact List.Subset.trans (hfold _ (fun u g => settleGroupBlock_eq l s u g ▸ passed_settleBlock _ _ _ u) _)
    (hfold _ (fun u n => settleChanBlock_eq l s u n ▸ passed_settleBlock _ _ _ u) _)

theorem passed_install (s : State) : (install s).passed ⊆ s.passed := by
  unfold install
  split
  · split
    · rw [installLoad_eq, passed_takeHeld]
      exact passed_installed _ s
    · exact List.Subset.refl _
  · exact List.Subset.refl _

end Sys2Proof.Machine

/-! SUPPORT. Memory in canonical form (R97, R107), the prescaler (R55, R58) and the order of starts (R133) under a step. -/
namespace Sys2Proof.Machine

/-! ### The order of starts (R133) -/

theorem MirrorOrderLaw.of_subset {s t : State} (h : MirrorOrderLaw s) (hp : t.passed ⊆ s.passed) : MirrorOrderLaw t := by
  obtain ⟨rank, hr⟩ := h
  exact ⟨rank, fun q hq => hr q (hp hq)⟩

/-- R133: a grant that starts an item keeps the order of starts free of circles; no other grant touches it. -/
theorem MirrorOrderLaw.grant {s : State} (h : MirrorOrderLaw s) : MirrorOrderLaw (grant s) := by
  have hadvance : ∀ (m : Mirror) i, (m.advance i).passed = m.passed := by
    intro m i
    cases i <;> rfl
  have hgranted : ∀ f, ∃ rank : MirrorItem → Nat, ∀ q ∈ (mirrorGranted s f).passed, rank q.1 < rank q.2 := by
    intro f
    have hpassed : (mirrorGranted s f).passed =
        (if f.granted = 0 then startItem s f.item s.mirror else s.mirror).passed := by
      unfold mirrorGranted
      dsimp only
      split <;> simp [hadvance]
    rw [hpassed]
    split
    · exact startItem_keeps_order f.item s.mirror h rfl
    · exact h
  suffices ∃ rank : MirrorItem → Nat, ∀ q ∈ (onGrant s s.mirror (mirrorAfter s)).passed, rank q.1 < rank q.2 from this
  unfold onGrant
  split
  · unfold mirrorAfter
    split
    · exact h
    · split
      · exact hgranted _
      · exact h
  · exact h

theorem MirrorOrderLaw.event {f : State → State} {s : State} (h : MirrorOrderLaw s) (hf : (f s).passed ⊆ s.passed) :
    MirrorOrderLaw (event f s) :=
  (h.of_subset (t := ungranted f s) (by rw [ungranted, passed_noteReports]; exact hf)).grant

theorem MirrorOrderLaw.ownEvent {s : State} (h : MirrorOrderLaw s) (e : Instr) : MirrorOrderLaw (Machine.event (Machine.ownEvent e) s) := by
  refine h.event ?_
  by_cases he : e = .install
  · subst he
    exact passed_install s
  · rw [passed_ownEvent he]
    exact List.Subset.refl _

theorem step_keeps_mirrorOrderLaw {s t : State} (hs : MirrorOrderLaw s) (h : step s = .next t) : MirrorOrderLaw t := by
  have hkeep : ∀ (f : State → State) (u : State), (f u).passed = u.passed → MirrorOrderLaw u → MirrorOrderLaw (event f u) :=
    fun f u hf hu => hu.event (by rw [hf]; exact List.Subset.refl _)
  refine step_keeps MirrorOrderLaw (fun _ _ hu => hu) (fun e _ _ hu => hu.ownEvent e)
    (fun p d u => hkeep _ u (passed_present p d u)) (fun p u => hkeep _ u (passed_dropReq p u))
    (fun u => hkeep _ u (passed_memoryCycleEnd u)) (fun p u => hkeep _ u (passed_completeCycleless p u))
    (fun u => hkeep _ u (passed_clockEdge u)) (fun u => hkeep _ u (passed_powerFails u)) (fun u hu => ?_) (fun u hu => ?_)
    (fun m c f u _ => hkeep _ u (passed_leaveReset m c f u)) hs h
  · exact hu.of_subset (by rw [ungranted, passed_noteReports, passed_powerFails]; exact List.Subset.refl _)
  · unfold resetFalls
    split
    · exact ⟨fun _ => 0, fun _ hq => nomatch hq⟩
    · exact hu

/-! ### Memory (R97, R107) -/

theorem step_keeps_memoryLaw {s t : State} (hs : MemoryLaw s) (h : step s = .next t) : MemoryLaw t := by
  have hkeep : ∀ (f : State → State) (u : State), (f u).mem = u.mem → MemoryLaw u → MemoryLaw (event f u) := by
    intro f u hf hu
    rw [MemoryLaw, (event_only f u).mem, hf]
    exact hu
  have hpower : ∀ u, (powerFails u).mem = u.mem := fun u => by
    obtain ⟨x, -, ho⟩ := powerFails_only u
    exact ho.mem
  have hrise : ∀ m c f u, (leaveReset m c f u).mem = u.mem := fun m c f u => by
    obtain ⟨x, -, ho⟩ := leaveReset_only m c f u
    exact ho.mem
  have hclock : ∀ u, (clockEdge u).mem = u.mem := fun u => by
    unfold clockEdge
    split
    · split <;> rfl
    · rfl
  refine step_keeps MemoryLaw (fun _ _ hu => hu) (fun e u _ => hkeep _ u (ownEvent_only e u).mem)
    (fun p d u => hkeep _ u (present_only p d u).mem) (fun p u => hkeep _ u (dropReq_only p u).mem) (fun u hu => ?_)
    (fun p u => hkeep _ u (completeCycleless_only p u).mem) (fun u => hkeep _ u (hclock u))
    (fun u => hkeep _ u (hpower u)) (fun u hu => ?_) (fun u hu => ?_) (fun m c f u _ => hkeep _ u (hrise m c f u)) hs h
  · rw [MemoryLaw, (event_only _ u).mem]
    cases hc : u.cycle with
    | none => rw [memoryCycleEnd_of_none hc]; exact hu
    | some c => rw [(memoryCycleEnd_only hc).mem]; exact cycleMem_wf _ _ hu
  · rw [MemoryLaw, (ungranted_only powerFails u).mem, hpower]
    exact hu
  · unfold resetFalls
    split
    · exact cutMem_wf u hu
    · exact hu

/-! ### The prescaler (R55, R58) -/

theorem PrescalerLaw.congr {s t : State} (h : PrescalerLaw s) (hd : t.divisor = s.divisor)
    (hp : t.prescaler = s.prescaler) : PrescalerLaw t := by
  rw [PrescalerLaw, hd, hp]
  exact h

theorem PrescalerLaw.access {s t : State} (h : PrescalerLaw s) (ho : OnlyAccess s t) : PrescalerLaw t :=
  h.congr ho.divisor ho.prescaler

theorem PrescalerLaw.event {f : State → State} {s : State} (h : PrescalerLaw (f s)) : PrescalerLaw (event f s) :=
  h.congr (ungranted_only f s).divisor (ungranted_only f s).prescaler

/-- R58, R109: the divisor of a parameter word lies in 1 to 256, and an install restarts the count. -/
theorem prescalerLaw_installed (l : Load) (s : State) : PrescalerLaw (installed l s) := by
  have hlaw : PrescalerLaw (takeNewSet l s (endOldSet l s)) := by
    have hlt := (l.param.extractLsb' 0 8).isLt
    refine ⟨Nat.succ_pos _, ?_, Nat.succ_pos _⟩
    change (l.param.extractLsb' 0 8).toNat + 1 ≤ 256
    omega
  exact hlaw.access (installed_only l s)

theorem PrescalerLaw.ownEvent {s : State} (h : PrescalerLaw s) (e : Instr) : PrescalerLaw (ownEvent e s) := by
  cases e
  case install =>
    change PrescalerLaw (install s)
    unfold install
    split
    · split
      · exact (prescalerLaw_installed _ s).access (takeHeld_only _)
      · exact h
    · exact h
  case fillExpiry n => exact h.access (expirePass_only n s).toAccess
  case freshnessDeadlineReached n => exact h.access (becomeStale_only n s).toAccess
  case pinRelease g => exact h.access (releasePin_only g false s).toAccess
  case partialPublication g => exact h.access (partialPublication_only g s).toAccess
  case frameTick g => exact h.access (frameTick_only g s).toAccess
  all_goals exact h

/-- R55: the count that reaches the divisor returns to 0. -/
theorem PrescalerLaw.clockEdge {s : State} (h : PrescalerLaw s) : PrescalerLaw (clockEdge s) := by
  obtain ⟨h1, h256, hlt⟩ := h
  unfold Machine.clockEdge
  split
  · split
    · exact ⟨h1, h256, h1⟩
    · exact ⟨h1, h256, by simp only; omega⟩
  · exact ⟨h1, h256, hlt⟩

theorem PrescalerLaw.memoryCycleEnd {s : State} (h : PrescalerLaw s) : PrescalerLaw (memoryCycleEnd s) := by
  cases hc : s.cycle with
  | none => rwa [memoryCycleEnd_of_none hc]
  | some c => exact PrescalerLaw.access (s := s.cycleEnded c) h (memoryCycleEnd_only hc)

theorem PrescalerLaw.powerFails {s : State} (h : PrescalerLaw s) : PrescalerLaw (powerFails s) := by
  obtain ⟨x, -, ho⟩ := powerFails_only s
  exact h.congr ho.divisor ho.prescaler

theorem PrescalerLaw.leaveReset {s : State} (h : PrescalerLaw s) (m : BitVec 2) (c f : Bool) :
    PrescalerLaw (leaveReset m c f s) := by
  obtain ⟨x, -, ho⟩ := leaveReset_only m c f s
  exact h.congr ho.divisor ho.prescaler

theorem step_keeps_prescalerLaw {s t : State} (hs : PrescalerLaw s) (h : step s = .next t) : PrescalerLaw t := by
  refine step_keeps PrescalerLaw (fun _ _ hu => hu) (fun e _ _ hu => (hu.ownEvent e).event)
    (fun p d u hu => (hu.access (present_only p d u)).event) (fun p u hu => (hu.access (dropReq_only p u)).event)
    (fun _ hu => hu.memoryCycleEnd.event) (fun p u hu => (hu.access (completeCycleless_only p u)).event)
    (fun _ hu => hu.clockEdge.event) (fun _ hu => hu.powerFails.event)
    (fun u hu => hu.powerFails.access (ungranted_only powerFails u).toAccess) (fun u hu => ?_)
    (fun m c f _ _ hu => (hu.leaveReset m c f).event) hs h
  unfold resetFalls
  split
  · exact PrescalerLaw.congr (s := State.reset) ⟨by decide, by decide, by decide⟩ rfl rfl
  · exact hu

/-- Settles O53: memory changes at the end of a write cycle and at a reset alone, the count at an edge and at an install, and
the order of starts grows at a grant alone. -/
theorem everyStepKeepsMemoryPrescalerAndMirrorOrder : Obligations.EveryStepKeepsMemoryPrescalerAndMirrorOrder :=
  fun _ _ h => ⟨fun hs => step_keeps_memoryLaw hs h, fun hs => step_keeps_prescalerLaw hs h,
    fun hs => step_keeps_mirrorOrderLaw hs h⟩

end Sys2Proof.Machine

/-! SUPPORT. What stands still in HOLDOVER (R167, R173, R174): the images, the open passes and the gathers under every
operation that is not barred there. -/
namespace Sys2Proof.Machine

/-! ### What holdover keeps still -/

/-- What HOLDOVER keeps of a channel: its live and pending buffers, its publications, its condition, its open pass. -/
def Channel.image (c : Channel) : Option Nat × Option PendingBuffer × Word × Condition × Option FillPass :=
  (c.live, c.pend, c.pubCount, c.cond, c.pass)

/-- What HOLDOVER keeps of the channel at place `n`. -/
def State.images (s : State) (n : Nat) : Option (Option Nat × Option PendingBuffer × Word × Condition × Option FillPass) :=
  (s.channel? n).map Channel.image

/-- The gather of the group at place `g`. -/
def State.gathers (s : State) (g : Nat) : Option (Option Gather) := (s.group? g).map (·.gather)

/-- From `s` to `t` no image moves, no pass opens or ends and no gather starts or ends. -/
structure Still (s t : State) : Prop where
  images : t.images = s.images
  gathers : t.gathers = s.gathers

section Still
variable {s t u : State}

theorem Still.of_fields (hc : t.channels = s.channels) (hg : t.groups = s.groups) : Still s t :=
  ⟨funext fun n => by rw [State.images, channel?_congr hc, State.images],
    funext fun g => by rw [State.gathers, group?_congr hg, State.gathers]⟩

theorem Still.refl (s : State) : Still s s := ⟨rfl, rfl⟩

theorem Still.trans (h : Still s t) (k : Still t u) : Still s u := ⟨k.images.trans h.images, k.gathers.trans h.gathers⟩

theorem Still.mark (h : Still s t) (i : MirrorItem) : Still s (t.mark i) := h.trans (.of_fields rfl rfl)

theorem Still.raise (h : Still s t) (p : Port) (c : Cause) : Still s (t.raise p c) := h.trans (.of_fields rfl rfl)

theorem Still.offer (h : Still s t) (p : Port) (r : Record) : Still s (t.offer p r) := h.trans (.of_fields rfl rfl)

theorem Still.setAccess (h : Still s t) (p : Port) (a : AccessState) : Still s (t.setAccess p a) :=
  h.trans (.of_fields rfl rfl)

/-- A place changed by `f` shows the same, where `f` shows the same. -/
theorem map_ite_map_eq {α β : Type} {o o' : Option α} {f : α → α} {F : α → β} {b : Prop} [Decidable b]
    (hf : ∀ c, F (f c) = F c) (ho : b → o = o') : (if b then o.map f else o').map F = o'.map F := by
  split
  · rename_i hb
    rw [ho hb]
    cases o' <;> simp [hf]
  · rfl

theorem Still.modChannel (h : Still s t) (n : Nat) (f : Channel → Channel)
    (hf : ∀ c, (f c).image = c.image := by exact fun _ => rfl) : Still s (t.modChannel n f) := by
  refine h.trans ⟨funext fun m => ?_, rfl⟩
  rw [State.images, State.channel?_modChannel]
  exact map_ite_map_eq hf fun e => by rw [e]

theorem Still.modGroup (h : Still s t) (g : Nat) (f : Group → Group)
    (hf : ∀ gr, (f gr).gather = gr.gather := by exact fun _ => rfl) : Still s (t.modGroup g f) := by
  refine h.trans ⟨rfl, funext fun k => ?_⟩
  rw [State.gathers, State.group?_modGroup]
  exact map_ite_map_eq (F := Group.gather) hf fun e => by rw [e]

theorem Still.foldl {β : Type} {f : State → β → State} (h : Still s t) (hf : ∀ v b, Still v (f v b)) (bs : List β) :
    Still s (bs.foldl f t) :=
  List.foldlRecOn (motive := Still s) bs f h fun _ hu b _ => hu.trans (hf _ b)

/-- Where no pass is open and no gather runs, none does in a state that shows the same. -/
theorem Still.nothingOpen (h : Still s t) (hpass : ∀ n c, s.channel? n = some c → c.pass = none)
    (hgather : ∀ g gr, s.group? g = some gr → gr.gather = none) :
    (∀ n c, t.channel? n = some c → c.pass = none) ∧ ∀ g gr, t.group? g = some gr → gr.gather = none := by
  refine ⟨fun n c hc => ?_, fun g gr hg => ?_⟩
  · have heq := congrFun h.images n
    simp only [State.images, hc, Option.map_some] at heq
    obtain ⟨d, hd, himage⟩ := Option.map_eq_some_iff.1 heq.symm
    have hsame : d.pass = c.pass := congrArg (fun x => x.2.2.2.2) himage
    rw [← hsame, hpass n d hd]
  · have heq := congrFun h.gathers g
    simp only [State.gathers, hg, Option.map_some] at heq
    obtain ⟨d, hd, hsame⟩ := Option.map_eq_some_iff.1 heq.symm
    rw [← hsame, hgather g d hd]

/-! ### Read pins, taints and rearms move no image -/

theorem Still.openPin (h : Still s t) (g : Nat) : Still s (openPin g t) := by
  have hpin : ∀ v m, Still v (pinMember v m) := by
    intro v m
    have hmod : Still v (v.modChannel m Channel.pinned) := (Still.refl v).modChannel m _
    unfold pinMember
    split
    · dsimp only
      split
      · exact hmod
      · exact hmod.mark _
    · exact .refl v
  unfold Machine.openPin
  split
  · split
    · exact ((h.modGroup g _).mark _).foldl hpin _
    · exact h
  · exact h

theorem Still.takeConsumerRead (h : Still s t) (n off : Nat) : Still s (takeConsumerRead n off t).1 := by
  unfold Machine.takeConsumerRead
  split
  · exact h
  · dsimp only
    split
    · exact (h.openPin _).modGroup _ _
    · exact h.openPin _

theorem Still.dropPin (h : Still s t) (g : Nat) : Still s (dropPin g t) := by
  refine Still.mark (Still.foldl (h.modGroup g _) (fun v m => ?_) (t.members g)) _
  unfold unpinMember
  split
  · split
    · exact ((Still.refl v).modChannel m _).mark _
    · exact .refl v
  · exact .refl v

theorem Still.closePin (h : Still s t) (g : Nat) : Still s (closePin g t) := by
  unfold Machine.closePin
  split
  · exact h
  · dsimp only
    split
    · exact ((h.dropPin g).offer _ _).raise _ _
    · exact h.dropPin g

theorem Still.releasePin (h : Still s t) (g : Nat) (i : Bool) : Still s (releasePin g i t) := by
  unfold Machine.releasePin
  split
  · exact h
  · exact ((h.dropPin g).offer _ _).raise _ _

theorem Still.taintPin (h : Still s t) (g : Nat) : Still s (taintPin g t) := by
  unfold Machine.taintPin
  split
  · exact h
  · split
    · exact h
    · exact (h.modGroup g _).mark _

theorem Still.rearm (h : Still s t) (x : Port) (v : Word) : Still s (rearm x v t) := by
  refine h.foldl (fun w n => ?_) indices
  rw [rearmOne_eq]
  split
  · exact ((Still.refl w).modChannel n _).mark _
  · exact .refl w

theorem still_handToOwner (x : Trigger) (v : Word) (s : State) : Still s (handToOwner x v s) := by
  cases x with
  | commit => exact .of_fields (channels_takeCommit v s) (groups_takeCommit v s)
  | enable y => exact .of_fields rfl rfl
  | ack y => exact .of_fields rfl rfl
  | jread y => exact .of_fields (channels_takeJread y v s) (groups_takeJread y v s)
  | rearm y => exact (Still.refl s).rearm y v

/-! ### Takes and completions in HOLDOVER -/

/-- R8, R174: in HOLDOVER a producer write is barred. -/
theorem still_takeProducerWrite (hp : s.partState = .holdover) (n off : Nat) : Still s (takeProducerWrite n off s).1 := by
  cases hc : s.channel? n with
  | none => 
    have hopen : openPass n s = s := by simp [openPass, hc]
    simp only [takeProducerWrite, hopen, steerWrite, hc]
    exact .refl s
  | some c =>
    rw [takeProducerWrite_of_barred hc (by simp [writeBarred, hp])]
    exact .refl s

theorem still_take (hp : s.partState = .holdover) (p : Port) (d : Drive) : Still s (take p d s) := by
  have hact : ∀ o x, Still s (actOnTake p d x o s) := by
    intro o x
    unfold actOnTake
    split
    · exact still_handToOwner _ _ s
    · exact ((Still.refl s).offer _ _).raise _ _
    · exact .refl s
  refine Still.setAccess ?_ p _
  unfold decodeAndAct
  split
  · exact hact _ _
  · unfold takeChannel
    split
    · exact .refl s
    · split
      · split
        · exact still_takeProducerWrite hp _ _
        · exact .refl s
      · split
        · exact ((Still.refl s).offer _ _).raise _ _
        · exact (Still.refl s).takeConsumerRead _ _
  · exact hact _ _
  · exact .refl s
  · exact .refl s
  · exact .refl s

/-- R10, R174: where no pass is open a completion closes none; what it does to a pin moves no image. -/
theorem still_exchangeStep (hpass : ∀ n c, s.channel? n = some c → c.pass = none) (k : Taken) (e : Lanes) :
    Still s (exchangeStep k e s) := by
  have hclose : ∀ n seq, closePass n seq s = s := by
    intro n seq
    unfold closePass
    split
    · rfl
    · rename_i c hc
      rw [hpass n c hc]
  unfold exchangeStep exchangeCompletion
  split
  · split
    · split
      · split
        · rw [hclose]; exact .refl s
        · exact .refl s
      · exact .refl s
    · split
      · exact .refl s
      · rename_i c _
        have htaint : Still s (if (e != 0) = true then Machine.taintPin c.desc.group s else s) := by
          split
          · exact (Still.refl s).taintPin _
          · exact .refl s
        dsimp only
        split
        · exact htaint.closePin _
        · exact htaint
  · exact .refl s

end Still

end Sys2Proof.Machine

/-! SUPPORT. The law of holdover under every event (R173, R174), and that only a fall of RST_N leaves HOLDOVER (R167). -/
namespace Sys2Proof.Machine

/-! ### The law of holdover under an event -/

/-- From `s` to `t` the law of holdover is kept, and HOLDOVER, once begun, with every image as it stands. -/
structure HoldoverKept (s t : State) : Prop where
  law : HoldoverLaw s → HoldoverLaw t
  stays : HoldoverLaw s → s.partState = .holdover → t.partState = .holdover ∧ Still s t

section HoldoverKept
variable {s t u : State}

theorem HoldoverKept.trans (h : HoldoverKept s t) (k : HoldoverKept t u) : HoldoverKept s u where
  law hs := k.law (h.law hs)
  stays hs hp := by
    obtain ⟨ht, hst⟩ := h.stays hs hp
    obtain ⟨hu, htu⟩ := k.stays (h.law hs) ht
    exact ⟨hu, hst.trans htu⟩

theorem HoldoverKept.refl (s : State) : HoldoverKept s s := ⟨id, fun _ hp => ⟨hp, .refl s⟩⟩

/-- Nothing but the Loader's state is at stake out of HOLDOVER. -/
theorem HoldoverKept.of_still (hp : t.partState = s.partState) (hl : LoaderTakes s t)
    (hstill : HoldoverLaw s → s.partState = .holdover → Still s t) : HoldoverKept s t where
  law hs := by
    refine ⟨fun hidle => ?_, fun ht => ?_⟩
    · rcases hl with ⟨hl, hr⟩ | ⟨-, l, hl⟩
      · rw [hr]
        exact hs.1 (hl ▸ hidle)
      · cases hl.symm.trans hidle
    · have hs' := hp ▸ ht
      obtain ⟨hpass, hgather, hidle⟩ := hs.2 hs'
      obtain ⟨hpass', hgather'⟩ := (hstill hs hs').nothingOpen hpass hgather
      refine ⟨hpass', hgather', ?_⟩
      rcases hl with ⟨hl, -⟩ | ⟨hne, -⟩
      · rw [hl, hidle]
      · exact absurd hs' hne
  stays hs hp' := ⟨hp.trans hp', hstill hs hp'⟩

theorem HoldoverKept.of_exchange (ho : OnlyExchange s t)
    (hstill : HoldoverLaw s → s.partState = .holdover → Still s t) : HoldoverKept s t :=
  .of_still ho.partState ho.loaderTakes hstill

theorem HoldoverKept.of_fields (hp : t.partState = s.partState) (hc : t.channels = s.channels) (hg : t.groups = s.groups)
    (hl : t.loader = s.loader) (hr : t.remembered = s.remembered) : HoldoverKept s t :=
  .of_still hp (.inl ⟨hl, hr⟩) fun _ _ => .of_fields hc hg

theorem HoldoverKept.take (p : Port) (d : Drive) (s : State) : HoldoverKept s (take p d s) :=
  .of_still (take_only p d s).partState (loader_take p d s) fun _ hp => still_take hp p d

theorem HoldoverKept.takeHeld (s : State) : HoldoverKept s (takeHeld s) := by
  have hone : ∀ p v, HoldoverKept v (takeHeldOf p v) := fun p v => by
    unfold takeHeldOf
    split
    · exact .take _ _ v
    · exact .refl v
  exact (hone .A s).trans (hone .B _)

theorem HoldoverKept.arriveIfRequested (p : Port) (s : State) : HoldoverKept s (arriveIfRequested p s) := by
  unfold Machine.arriveIfRequested arrive
  split
  · split
    · exact .of_fields rfl rfl rfl rfl rfl
    · exact .take _ _ s
  · exact .refl s

theorem HoldoverKept.present (p : Port) (d : Drive) (s : State) : HoldoverKept s (present p d s) := by
  have hdrive : HoldoverKept s (drivePort p d s) := .of_fields rfl rfl rfl rfl rfl
  unfold Machine.present
  split
  · exact hdrive.trans (.arriveIfRequested p _)
  · exact hdrive

theorem HoldoverKept.dropReq (p : Port) (s : State) : HoldoverKept s (dropReq p s) := by
  unfold Machine.dropReq
  split
  · exact .of_fields rfl rfl rfl rfl rfl
  · exact .refl s

theorem HoldoverKept.noteReports (b s : State) : HoldoverKept s (noteReports b s) :=
  .of_exchange (noteReports_only b s) fun _ _ => .of_fields (channels_noteReports b s) (groups_noteReports b s)

theorem HoldoverKept.complete (p : Port) (k : Taken) (w : Word) (e : Lanes) (s : State) :
    HoldoverKept s (complete p k w e s) := by
  have hparity : HoldoverKept s (reportParity p k e s) :=
    .of_exchange (reportParity_only p k e s) fun _ _ =>
      .of_fields (channels_reportParity p k e s) (groups_reportParity p k e s)
  have hstep : ∀ v, HoldoverKept v (exchangeStep k e v) := fun v =>
    .of_exchange (exchangeStep_only k e v) fun hv hp => still_exchangeStep (hv.2 hp).1 k e
  have hset : ∀ (v : State) a, HoldoverKept v (v.setAccess p a) := fun v a => .of_fields rfl rfl rfl rfl rfl
  have heffects : HoldoverKept s (Machine.noteReports s (completionEffects k p e s)) :=
    (hparity.trans (hstep _)).trans (.noteReports s _)
  unfold Machine.complete finishPort
  split
  · exact heffects.trans ((hset _ _).trans (.arriveIfRequested p _))
  · exact heffects.trans (hset _ _)

theorem HoldoverKept.completeCycleless (p : Port) (s : State) : HoldoverKept s (completeCycleless p s) := by
  unfold Machine.completeCycleless
  split
  · split
    · exact .complete _ _ _ _ s
    · exact .refl s
  · exact .refl s

/-! ### The Loader and the Mirror -/

/-- R113: an IDLE Loader holds no remembered request. -/
def IdleForgets (s : State) : Prop := s.loader = .idle → s.remembered = none

theorem idleForgets_continueLoader (s : State) : IdleForgets (continueLoader s) := by
  unfold continueLoader
  split
  · exact fun h => nomatch h
  · exact fun _ => ‹s.remembered = none›

theorem idleForgets_finishReading (l : Load) (s : State) : IdleForgets (finishReading l s) := by
  unfold finishReading
  split
  · exact idleForgets_continueLoader _
  · exact fun h => nomatch h

theorem idleForgets_loaderReadDone {w : Word} {e : Lanes} {l : Load} (hl : s.loader = .reading l) :
    IdleForgets (loaderReadDone w e s) := by
  unfold loaderReadDone tableReadDone resumeReadDone
  simp only [hl]
  split
  · split
    · exact idleForgets_continueLoader _
    · split
      · exact fun h => nomatch h
      · split
        · exact idleForgets_finishReading _ s
        · exact fun h => nomatch h
  · split
    · exact fun h => nomatch h
    · exact idleForgets_finishReading _ s

theorem HoldoverKept.loaderReadDone (w : Word) (e : Lanes) (s : State) : HoldoverKept s (loaderReadDone w e s) := by
  by_cases hread : ∃ l, s.loader = .reading l
  · obtain ⟨l, hl⟩ := hread
    have hrun : HoldoverLaw s → s.partState ≠ .holdover := fun hs hp => by
      cases hl.symm.trans (hs.2 hp).2.2
    refine ⟨fun hs => ⟨idleForgets_loaderReadDone hl, fun hp => absurd ?_ (hrun hs)⟩, fun hs hp => absurd hp (hrun hs)⟩
    rw [← (loaderReadDone_only w e s).partState, hp]
  · have hsame : Machine.loaderReadDone w e s = s := by
      unfold Machine.loaderReadDone
      split
      · exact absurd ⟨_, by assumption⟩ hread
      · rfl
    rw [hsame]
    exact .refl s

theorem HoldoverKept.mirrorCycleDone (s : State) : HoldoverKept s (mirrorCycleDone s) := by
  unfold Machine.mirrorCycleDone itemCompleted
  split
  · split
    · exact .refl s
    · split
      · exact .of_fields rfl rfl rfl rfl rfl
      · exact .of_fields rfl rfl rfl rfl rfl
      · exact .of_fields rfl rfl rfl rfl rfl
      · exact .of_fields rfl rfl rfl rfl rfl
  · exact .refl s

theorem HoldoverKept.memoryCycleEnd (s : State) : HoldoverKept s (memoryCycleEnd s) := by
  unfold Machine.memoryCycleEnd
  split
  · exact .refl s
  · rename_i c _
    have hended : HoldoverKept s (s.cycleEnded c) := .of_fields rfl rfl rfl rfl rfl
    dsimp only
    split
    · split
      · exact hended.trans (.complete _ _ _ _ _)
      · exact hended
    · exact hended.trans (.loaderReadDone _ _ _)
    · exact hended.trans (.mirrorCycleDone _)

theorem HoldoverKept.clockEdge (s : State) : HoldoverKept s (clockEdge s) := by
  unfold Machine.clockEdge
  split
  · split
    · exact .of_fields rfl rfl rfl rfl rfl
    · exact .of_fields rfl rfl rfl rfl rfl
  · exact .refl s

/-! ### The part's own events -/

/-- R173: out of HOLDOVER the law is about the Loader alone. -/
theorem HoldoverKept.of_running (ho : OnlyExchange s t) (h : HoldoverLaw s → s.partState ≠ .holdover) : HoldoverKept s t :=
  .of_exchange ho fun hs hp => absurd hp (h hs)

/-- R123: an install leaves the part RUNNING. -/
theorem holdoverLaw_installed (l : Load) (s : State) : HoldoverLaw (installed l s) := by
  refine ⟨idleForgets_continueLoader _, fun hp => ?_⟩
  have hrun : (installed l s).partState = .running := (installed_only l s).partState
  cases hrun.symm.trans hp

theorem HoldoverKept.install (h : installOwed s = true) : HoldoverKept s (install s) := by
  obtain ⟨⟨l, hl⟩, -⟩ := installOwed_iff.1 h
  have hinstall : Machine.install s = Machine.takeHeld (installed l s) := by
    rw [Machine.install, hl]
    exact if_pos h
  refine ⟨fun _ => ?_, fun hs hp => ?_⟩
  · rw [hinstall]
    exact (HoldoverKept.takeHeld _).law (holdoverLaw_installed l s)
  · cases hl.symm.trans (hs.2 hp).2.2

theorem HoldoverKept.ownEvent {e : Instr} (h : e ∈ dueEvents s) : HoldoverKept s (ownEvent e s) := by
  rcases mem_dueEvents.1 h with ⟨rfl, hd⟩ | ⟨n, rfl, hd⟩ | ⟨n, rfl, hd⟩ | ⟨g, rfl, hd⟩ | ⟨g, rfl, hd⟩ | ⟨g, rfl, hd⟩
  · exact .install hd
  · refine .of_running (expirePass_only n s) fun hs hp => ?_
    obtain ⟨c, q, hc, hq, -⟩ := mem_dueEvents_iff_due.1 h
    cases hq.symm.trans ((hs.2 hp).1 n c hc)
  · exact .of_running (becomeStale_only n s) fun _ => (mem_dueEvents_iff_due.1 h).1
  · exact .of_exchange (releasePin_only g false s) fun _ _ => (Still.refl s).releasePin g false
  · refine .of_running (partialPublication_only g s) fun hs hp => ?_
    obtain ⟨gr, q, hg, hq, -⟩ := mem_dueEvents_iff_due.1 h
    cases hq.symm.trans ((hs.2 hp).2.1 g gr hg)
  · refine .of_running (frameTick_only g s) fun _ hp => ?_
    obtain ⟨hrun, -⟩ := mem_dueEvents_iff_due.1 h
    cases hrun.symm.trans hp

theorem HoldoverKept.event {f : State → State} (h : HoldoverKept s (f s)) : HoldoverKept s (event f s) :=
  (h.trans (.noteReports s _)).trans (.of_fields rfl rfl rfl rfl rfl)

theorem HoldoverKept.settle (s : State) : HoldoverKept s (settle s) :=
  settle_keeps (HoldoverKept s) (fun _ _ he hu => hu.trans (HoldoverKept.ownEvent he).event) s (.refl s)

/-! ### The changes of the part state (R173, R174) -/

theorem channel?_abortPass (s : State) (n m : Nat) : (abortPass s n).channel? m =
    if m = n then (s.channel? n).map fun c => { c with pass := none } else s.channel? m := by
  have hsame : ((s.channel? n).map fun c => { c with pass := none }) = s.channel? n →
      s.channel? m = if m = n then (s.channel? n).map fun c => { c with pass := none } else s.channel? m := by
    intro h
    split
    · rename_i e; rw [h, e]
    · rfl
  unfold abortPass
  split
  · rename_i hc
    exact hsame (by simp [hc])
  · rename_i c hc
    split
    · rename_i hp
      exact hsame (by rw [hc, ← hp]; rfl)
    · simp

theorem group?_cancelGather (s : State) (g k : Nat) : (cancelGather s g).group? k =
    if k = g then (s.group? g).map fun gr => { gr with gather := none } else s.group? k := by
  unfold cancelGather
  split
  · simp [endGather]
  · rename_i hq
    split
    · rename_i e
      rw [e]
      cases hg : s.group? g with
      | none => rfl
      | some gr =>
        have hnone : gr.gather = none := by simpa [hg] using hq
        rw [Option.map_some, ← hnone]
    · rfl

theorem groups_abortPass (s : State) (n : Nat) : (abortPass s n).groups = s.groups := by
  unfold abortPass
  split
  · rfl
  · split <;> rfl

/-- R173 steps 1 and 3: every pass and every gather ends. -/
theorem pass_of_abortPasses {s : State} {n : Nat} {c : Channel} (hc : (indices.foldl abortPass s).channel? n = some c) :
    c.pass = none := by
  refine indices_foldl_at (State.channel?_lt hc) (fun _ => True) (fun u => ∀ c, u.channel? n = some c → c.pass = none)
    abortPass (s := s) trivial (fun _ _ _ _ => trivial) (fun u _ c hc => ?_) (fun u b hb hu c hc => ?_) c hc
  · rw [channel?_abortPass, if_pos rfl] at hc
    obtain ⟨d, -, rfl⟩ := Option.map_eq_some_iff.1 hc
    rfl
  · rw [channel?_abortPass, if_neg (Ne.symm hb)] at hc
    exact hu c hc

theorem gather_of_cancelGathers {s : State} {g : Nat} {gr : Group}
    (hg : (indices.foldl cancelGather s).group? g = some gr) : gr.gather = none := by
  refine indices_foldl_at (State.group?_lt hg) (fun _ => True) (fun u => ∀ gr, u.group? g = some gr → gr.gather = none)
    cancelGather (s := s) trivial (fun _ _ _ _ => trivial) (fun u _ gr hg => ?_) (fun u b hb hu gr hg => ?_) gr hg
  · rw [group?_cancelGather, if_pos rfl] at hg
    obtain ⟨d, -, rfl⟩ := Option.map_eq_some_iff.1 hg
    rfl
  · rw [group?_cancelGather, if_neg (Ne.symm hb)] at hg
    exact hu gr hg

theorem groups_abandonLoad (s : State) : (abandonLoad s).groups = s.groups := by
  unfold abandonLoad
  split
  · rfl
  · exact groups_reportLoadEnd _ _ _ _
  · exact groups_reportLoadEnd _ _ _ _

theorem loader_abandonLoad (s : State) : (abandonLoad s).loader = .idle := by
  unfold abandonLoad
  split
  · assumption
  · rfl
  · rfl

theorem idleForgets_abandonLoad (h : IdleForgets s) : IdleForgets (abandonLoad s) := by
  unfold abandonLoad
  split
  · exact h
  · exact fun _ => rfl
  · exact fun _ => rfl

/-- The state of HOLDOVER before the held accesses are taken: what R173 ends has ended. -/
def holdoverEntered (s : State) : State :=
  abandonLoad (indices.foldl cancelGather
    (indices.foldl abortPass (({ s with partState := .holdover }.mark (.part 1)).offerBoth (holdoverRecord s))))

theorem startHoldover_eq (s : State) : startHoldover s = Machine.takeHeld (holdoverEntered s) := rfl

theorem holdoverLaw_holdoverEntered (h : IdleForgets s) : HoldoverLaw (holdoverEntered s) := by
  have hloader := ((OnlyExchange.refl { s with partState := .holdover }).mark (.part 1)).offerBoth (holdoverRecord s)
  have hend := OnlyExchange.foldl _ cancelGather_only indices (OnlyExchange.foldl _ abortPass_only indices hloader)
  refine ⟨idleForgets_abandonLoad fun hidle => ?_, fun _ => ⟨fun n c hc => ?_, fun g gr hg => ?_, loader_abandonLoad _⟩⟩
  · rw [hend.remembered]
    exact h (hend.loader ▸ hidle)
  · rw [holdoverEntered, channel?_congr (channels_abandonLoad _),
      channel?_congr (foldl_field State.channels _ channels_cancelGather _ _)] at hc
    exact pass_of_abortPasses hc
  · rw [holdoverEntered, group?_congr (groups_abandonLoad _)] at hg
    exact gather_of_cancelGathers hg

theorem foldl_abortPass_of_none (h : ∀ n c, s.channel? n = some c → c.pass = none) (is : List Nat) :
    is.foldl abortPass s = s := by
  refine List.foldlRecOn (motive := (· = s)) is abortPass rfl fun u hu n _ => ?_
  subst hu
  unfold abortPass
  split
  · rfl
  · rename_i c hc
    rw [h n c hc]

theorem foldl_cancelGather_of_none (h : ∀ g gr, s.group? g = some gr → gr.gather = none) (is : List Nat) :
    is.foldl cancelGather s = s := by
  refine List.foldlRecOn (motive := (· = s)) is cancelGather rfl fun u hu g _ => ?_
  subst hu
  unfold cancelGather
  cases hg : u.group? g with
  | none => rfl
  | some gr => rw [Option.bind_some, h g gr hg]

theorem abandonLoad_of_idle (h : s.loader = .idle) : abandonLoad s = s := by
  rw [abandonLoad, h]

/-- R172, R174: in HOLDOVER there is nothing to end. -/
theorem still_holdoverEntered (hs : HoldoverLaw s) (hp : s.partState = .holdover) : Still s (holdoverEntered s) := by
  obtain ⟨hpass, hgather, hidle⟩ := hs.2 hp
  have hstart : Still s (({ s with partState := .holdover }.mark (.part 1)).offerBoth (holdoverRecord s)) :=
    .of_fields rfl rfl
  have hloader := ((OnlyExchange.refl { s with partState := .holdover }).mark (.part 1)).offerBoth (holdoverRecord s)
  unfold holdoverEntered
  generalize ({ s with partState := .holdover }.mark (.part 1)).offerBoth (holdoverRecord s) = v at hstart hloader
  obtain ⟨hpass', hgather'⟩ := hstart.nothingOpen hpass hgather
  rw [foldl_abortPass_of_none hpass', foldl_cancelGather_of_none hgather', abandonLoad_of_idle (hloader.loader.trans hidle)]
  exact hstart

theorem partState_holdoverEntered (s : State) : (holdoverEntered s).partState = .holdover := by
  have hloader := ((OnlyExchange.refl { s with partState := .holdover }).mark (.part 1)).offerBoth (holdoverRecord s)
  have hend := OnlyExchange.foldl _ cancelGather_only indices (OnlyExchange.foldl _ abortPass_only indices hloader)
  exact (abandonLoad_only _).partState.trans hend.partState

theorem HoldoverKept.startHoldover (s : State) : HoldoverKept s (startHoldover s) := by
  have hentered : HoldoverKept s (holdoverEntered s) :=
    ⟨fun hs => holdoverLaw_holdoverEntered hs.1,
      fun hs hp => ⟨partState_holdoverEntered s, still_holdoverEntered hs hp⟩⟩
  exact hentered.trans (.takeHeld _)

theorem HoldoverKept.powerFails (s : State) : HoldoverKept s (powerFails s) := by
  have hpin : HoldoverKept s { s with pins := { s.pins with pfailN := false } } := .of_fields rfl rfl rfl rfl rfl
  unfold Machine.powerFails
  dsimp only
  split
  · exact hpin.trans (.startHoldover _)
  · exact hpin

theorem HoldoverKept.leaveReset (m : BitVec 2) (c f : Bool) (s : State) : HoldoverKept s (leaveReset m c f s) := by
  have hstraps : HoldoverKept s (sampleStraps m c f s) := .of_fields rfl rfl rfl rfl rfl
  have harrive : ∀ u, HoldoverKept u (arrivalsAtRise u) := fun u =>
    (HoldoverKept.arriveIfRequested .A u).trans (.arriveIfRequested .B _)
  unfold Machine.leaveReset
  dsimp only
  split
  · exact (hstraps.trans (.startHoldover _)).trans (harrive _)
  · exact hstraps.trans (harrive _)

/-- The effect of every command from outside. -/
theorem HoldoverKept.outside {i : Instr} {f : State → State} (h : Outside i f) (s : State) : HoldoverKept s (f s) := by
  cases h with
  | access _ => exact .present _ _ s
  | reqFall p => exact .dropReq p s
  | cycleEnd => exact .memoryCycleEnd s
  | cycleless p => exact .completeCycleless p s
  | tick => exact .clockEdge s
  | tclkEdge => exact .clockEdge s
  | holdover => exact .powerFails s

/-- Every step but a fall of RST_N that is high keeps HOLDOVER. -/
theorem exec_keeps_holdover {i : Instr} (h : exec i s = .next t) :
    HoldoverKept s t ∨ (i = .resetAssert ∧ t = enterReset (settle s)) := by
  rcases exec_cases i s with ⟨f, hf, e⟩ | ⟨hd, e⟩ | ⟨-, -, e⟩ | ⟨rfl, e⟩ | ⟨m, c, f, -, -, e⟩ | ⟨-, -, e⟩ <;>
    cases e.symm.trans h
  · exact .inl ((HoldoverKept.settle s).trans (HoldoverKept.outside hf _).event)
  · exact .inl (HoldoverKept.ownEvent hd).event
  · exact .inl (.refl s)
  · unfold resetFalls
    split
    · exact .inr ⟨rfl, rfl⟩
    · exact .inl (.settle s)
  · exact .inl (HoldoverKept.leaveReset m c f s).event
  · exact .inl ((HoldoverKept.settle s).trans ((HoldoverKept.powerFails _).trans (.noteReports _ _)))

end HoldoverKept

/-- Settles O56: every event keeps the law and, in HOLDOVER, every image; a fall of RST_N alone is no such event. -/
theorem holdoverStopsEveryImage : Obligations.HoldoverStopsEveryImage := by
  intro s t hs h
  unfold step at h
  split at h
  · cases h
    exact ⟨hs, fun hp => .inl ⟨hp, fun _ => rfl⟩⟩
  · rename_i i rest hq
    have hs' : HoldoverLaw { s with pending := rest } := hs
    rcases exec_keeps_holdover h with hk | ⟨rfl, rfl⟩
    · refine ⟨hk.law hs', fun hp => ?_⟩
      obtain ⟨ht, hstill⟩ := hk.stays hs' hp
      refine .inl ⟨ht, fun n => ?_⟩
      have himages : (t.channel? n).map Channel.image = (s.channel? n).map Channel.image := congrFun hstill.images n
      have hproj := congrArg (Option.map fun x => (x.1, x.2.1, x.2.2.1, x.2.2.2.1)) himages
      simpa [Channel.image, Function.comp_def] using hproj
    · exact ⟨⟨fun _ => rfl, fun hp => nomatch hp⟩, fun _ => .inr ⟨by rw [hq]; rfl, rfl⟩⟩

end Sys2Proof.Machine

/-! SUPPORT. What an install tells the two processors (R126, R128, R129): the records of the endings, of the resumed channels
and of the load's end, with the causes and the marks they bring. -/
namespace Sys2Proof.Machine

/-! ### What is told, apart from the status blocks -/

/-- `Tells`, but silent on which status blocks wait: the install settles those apart (R126, R128). -/
structure Reports (s t : State) (rs : Port → List Record) (cs : Port → BitVec 12) (is : List MirrorItem) : Prop where
  clock : t.clock = s.clock
  journal : ∀ p, t.journals.get p = offers s.clock (s.journals.get p) (rs p)
  attention : ∀ p, t.attention.get p = (s.attention.get p).told (cs p) s.clock (s.journals.get p) (rs p)
  marked : ∀ i, i.isBlock = false → (Marked t i ↔ Marked s i ∨ i ∈ is ++
    offersMark s.clock .A (s.journals.get .A) (rs .A) ++ offersMark s.clock .B (s.journals.get .B) (rs .B))

/-- An operation that marks status blocks alone marks nothing that counts here. -/
theorem Tells.reports_of_blocks {s t : State} {rs : Port → List Record} {cs : Port → BitVec 12} {is : List MirrorItem}
    (h : Tells s t rs cs is) (hi : ∀ i ∈ is, i.isBlock = true) : Reports s t rs cs [] where
  clock := h.clock
  journal := h.journal
  attention := h.attention
  marked i hb := by
    have hnot : i ∉ is := fun hm => by simp [hi i hm] at hb
    rw [h.marks.1 i]
    simp [hnot]

/-- What `Tells` says of the marks holds of the items that are no block. -/
theorem Tells.toReports {s t : State} {rs : Port → List Record} {cs : Port → BitVec 12} {is : List MirrorItem}
    (h : Tells s t rs cs is) : Reports s t rs cs is :=
  ⟨h.clock, h.journal, h.attention, fun i _ => h.marks.1 i⟩

/-- A change of other fields, and of the marks of status blocks, tells nothing. -/
theorem Reports.of_spares {s t : State} (hc : t.clock = s.clock) (hj : t.journals = s.journals)
    (ha : t.attention = s.attention) (hm : Spares (·.isBlock = false) s t) : Reports s t (fun _ => []) (fun _ => 0) [] where
  clock := hc
  journal p := by rw [hj, offers_nil]
  attention p := by rw [ha]; exact (told_nil _ _ _).symm
  marked i hb := by rw [hm.marked i hb]; simp [offersMark]

theorem Reports.congr {s t : State} {rs qs : Port → List Record} {cs ds : Port → BitVec 12} {is : List MirrorItem}
    (h : Reports s t rs cs is) (hr : ∀ p, qs p = rs p) (hc : ∀ p, ds p = cs p) : Reports s t qs ds is := by
  obtain rfl : qs = rs := funext hr
  obtain rfl : ds = cs := funext hc
  exact h

theorem Reports.trans {s t u : State} {rs qs : Port → List Record} {cs ds : Port → BitVec 12} {is js : List MirrorItem}
    (h : Reports s t rs cs is) (k : Reports t u qs ds js) :
    Reports s u (fun p => rs p ++ qs p) (fun p => cs p ||| ds p) (is ++ js) where
  clock := k.clock.trans h.clock
  journal p := by rw [k.journal, h.journal, h.clock, offers_append]
  attention p := by rw [k.attention, h.attention, h.journal, h.clock, told_told]
  marked i hb := by
    rw [k.marked i hb, h.marked i hb, h.journal, h.journal, h.clock]
    simp only [offersMark_append, List.mem_append]
    tauto

theorem causeIf_or (k : Cause) (a b : Bool) : causeIf k a ||| causeIf k b = causeIf k (a || b) := by
  cases a <;> cases b <;> simp [causeIf]

/-- A loop each of whose turns offers its records and may raise cause `k`; `I` holds of what is still to come. -/
theorem Reports.foldl {β : Type} {f : State → β → State} {rs : β → Port → List Record} {k : Cause} {q : β → Port → Bool}
    {I : List β → State → Prop}
    (step : ∀ b bs u, I (b :: bs) u → Reports u (f u b) (rs b) (fun p => causeIf k (q b p)) [] ∧ I bs (f u b)) :
    ∀ bs s, I bs s →
      Reports s (bs.foldl f s) (fun p => bs.flatMap (rs · p)) (fun p => causeIf k (bs.any (q · p))) []
  | [], s, _ => (tells_refl s).toReports.congr (fun _ => rfl) fun _ => rfl
  | b :: bs, s, hs => by
    obtain ⟨hb, hrest⟩ := step b bs s hs
    exact (hb.trans (Reports.foldl step bs _ hrest)).congr (fun p => by simp) fun p => by
      rw [causeIf_or, List.any_cons]

/-- A loop whose turns offer records at the clock value `now` and raise no cause. -/
theorem Reports.foldl_records {β : Type} {f : State → β → State} {rs : β → Port → List Record} {now : Word}
    (step : ∀ u b, u.clock = now → Reports u (f u b) (rs b) (fun _ => 0) []) (bs : List β) (s : State)
    (hs : s.clock = now) : Reports s (bs.foldl f s) (fun p => bs.flatMap (rs · p)) (fun _ => 0) [] :=
  (Reports.foldl (k := .commit) (q := fun _ _ => false) (I := fun _ u => u.clock = now)
    (fun b _ u hu => ⟨step u b hu, (step u b hu).clock.trans hu⟩) bs s hs).congr (fun _ => rfl) fun _ => by
      simp [causeIf]

/-! ### The channels that end (R126) -/

/-- The records, offered in their order to one port. -/
def State.offerAll (x : Port) (rs : List Record) (s : State) : State := rs.foldl (fun u r => u.offer x r) s

theorem reports_offerAll (x : Port) (rs : List Record) (s : State) :
    Reports s (s.offerAll x rs) (onlyTo x [] rs) (fun _ => 0) [] :=
  (Reports.foldl_records (rs := fun r => onlyTo x [] [r]) (fun u r _ => (tells_offer u x r).toReports) rs s rfl).congr
    (fun p => by
      unfold onlyTo
      split <;> simp) fun _ => rfl

/-- R126: an ended channel tells its producer alone, its open pass first. -/
theorem endChannel_eq {s u : State} {n : Nat} {c : Channel} (hc : s.channel? n = some c) (l : Load)
    (hu : u.clock = s.clock) :
    endChannel l s u n = u.offerAll c.desc.producer (endedChannelRecords s l c.desc.producer n) := by
  unfold endChannel endedChannelRecords
  simp only [hc, bne_self_eq_false, Bool.or_false]
  cases carriesChannel s l n with
  | true => rfl
  | false => cases c.pass <;> cases c.pend <;> simp only [← hu] <;> rfl

theorem endedChannelRecords_eq {s : State} {n : Nat} {c : Channel} (hc : s.channel? n = some c) (l : Load) (x : Port) :
    endedChannelRecords s l x n = onlyTo c.desc.producer [] (endedChannelRecords s l c.desc.producer n) x := by
  unfold endedChannelRecords onlyTo
  by_cases hx : x = c.desc.producer
  · rw [if_pos hx, hx]
  · simp [hc, hx, Ne.symm hx]

theorem reports_endChannel {s u : State} (l : Load) (hu : u.clock = s.clock) (n : Nat) :
    Reports u (endChannel l s u n) (fun x => endedChannelRecords s l x n) (fun _ => 0) [] := by
  cases hc : s.channel? n with
  | none =>
    have hsame : endChannel l s u n = u := by simp only [endChannel, hc]
    rw [hsame]
    exact (tells_refl u).toReports.congr (fun p => by simp only [endedChannelRecords, hc]) fun _ => rfl
  | some c =>
    rw [endChannel_eq hc l hu]
    exact (reports_offerAll _ _ u).congr (endedChannelRecords_eq hc l) fun _ => rfl

/-! ### The groups that end (R128) -/

/-- R128 step 3: the record of member `m`'s pending buffer for port `x`, where the member is carried. -/
def droppedRecord (s : State) (l : Load) (x : Port) (m : Nat) : Option Record :=
  match s.channel? m with
  | some c =>
    match c.pend with
    | some q => if carriesChannel s l m && c.desc.producer == x then some (abortedPendingRecord m q s.clock) else none
    | none => none
  | none => none

theorem reports_dropMemberPending {s u : State} (l : Load) (hu : u.clock = s.clock) (m : Nat) :
    Reports u (dropMemberPending l s u m) (fun x => (droppedRecord s l x m).toList) (fun _ => 0) [] := by
  have hquiet := (tells_refl u).toReports
  unfold dropMemberPending droppedRecord
  cases s.channel? m with
  | none => exact hquiet
  | some c =>
    dsimp only
    cases carriesChannel s l m with
    | false =>
      refine hquiet.congr (fun x => ?_) fun _ => rfl
      cases c.pend <;> rfl
    | true =>
      cases c.pend with
      | none => exact hquiet
      | some q =>
        rw [← hu]
        refine ((tells_modChannel u m fun c => { c with pend := none }).trans
          (tells_offer _ c.desc.producer (abortedPendingRecord m q u.clock))).toReports.congr (fun x => ?_) fun x => by
            simp
        by_cases hx : x = c.desc.producer
        · simp [onlyTo, hx]
        · simp [onlyTo, hx, Ne.symm hx]

/-- R128: the install closes the pin of group `g`, and port `x` is its consumer. -/
def releasesPin (s : State) (l : Load) (g : Nat) (x : Port) : Bool :=
  ((s.group? g).bind (·.pin)).isSome && !carriesGroup s l g && s.groupConsumer g == x

theorem releasesPinOf_eq (s : State) (l : Load) (x : Port) :
    releasesPinOf s l x = indices.any fun g => releasesPin s l g x := by
  unfold releasesPinOf indices
  congr 1
  funext g
  unfold releasesPin
  cases s.group? g <;> rfl

/-- R50, R128: the release of a pin at an install. -/
theorem reports_releasePin (g : Nat) (u : State) :
    Reports u (releasePin g true u)
      (onlyTo (u.groupConsumer g) [] (((u.group? g).bind (·.pin)).toList.map fun p =>
        pinExpiredRecord g true p (u.freedMask g) u.clock))
      (onlyTo (u.groupConsumer g) 0 (causeIf .pinFault ((u.group? g).bind (·.pin)).isSome)) [] := by
  unfold releasePin
  cases (u.group? g).bind (·.pin) with
  | none => exact (tells_refl u).toReports.congr (fun p => by simp [onlyTo]) fun p => by simp [onlyTo, causeIf]
  | some p =>
    have hdrop : Reports u (dropPin g u) _ _ _ := (tells_dropPin g u).reports_of_blocks (by simp [MirrorItem.isBlock])
    exact ((hdrop.trans (tells_offer _ _ _).toReports).trans (tells_raise _ _ .pinFault).toReports).congr
      (fun y => by simp) fun y => by simp [causeIf]

theorem endedGroupRecords_of_ends {s : State} {l : Load} {g : Nat} {gr : Group} (hg : s.group? g = some gr)
    (hends : carriesGroup s l g = false) (x : Port) : endedGroupRecords s l x g =
      onlyTo (s.groupConsumer g) [] (gr.pin.toList.map fun p => pinExpiredRecord g true p (s.freedMask g) s.clock) x ++
      (s.members g).flatMap fun m => (droppedRecord s l x m).toList := by
  have hpin : ∀ p : Pin, mkRecord .pinExpired g none (flagBit 1 true ||| flagBit 2 p.tainted)
      (channelMask ((s.members g).filter s.holdsOld)) p.openTime s.clock =
        pinExpiredRecord g true p (s.freedMask g) s.clock := by
    intro p
    have hflags : flagBit 0 (!true) ||| flagBit 1 true = flagBit 1 true := by decide
    rw [pinExpiredRecord, hflags]
    rfl
  unfold endedGroupRecords
  simp only [hg, hends, Bool.false_eq_true, if_false, hpin, ← List.filterMap_eq_flatMap_toList]
  congr 1
  cases gr.pin with
  | none => simp [onlyTo]
  | some p => simp [onlyTo, eq_comm]

/-- R31: no channel stands on the chains of two groups. -/
theorem ChainLaw.members_disjoint {s : State} (h : ChainLaw s) {g k m : Nat} (hg : m ∈ s.members g) (hk : m ∈ s.members k) :
    g = k := by
  cases hgr : s.group? g with
  | none => simp [State.members, hgr] at hg
  | some gr =>
    obtain ⟨-, -, -, hnamed⟩ := h.1 g gr hgr
    obtain ⟨c, hc, -⟩ := hnamed m hg
    have hmem := (h.members_channel hc).2
    exact ((hmem g).1 hg).trans ((hmem k).1 hk).symm

/-- While the endings run: the groups of `gs` and their members are still as they were in `s`. -/
structure Unended (s u : State) (gs : List Nat) : Prop where
  clock : u.clock = s.clock
  chains : SameChains s u
  nodup : gs.Nodup
  group : ∀ g ∈ gs, u.group? g = s.group? g
  member : ∀ g ∈ gs, ∀ m ∈ s.members g, u.channel? m = s.channel? m

/-- R31: the end of a group leaves the chains of the others alone. -/
theorem Unended.endGroup {s u : State} {g : Nat} {gs : List Nat} (h : Unended s u (g :: gs)) (hlaw : ChainLaw s)
    (l : Load) : Unended s (endGroup l s u g) gs where
  clock := (endGroup_only l s u g).clock.trans h.clock
  chains := h.chains.endGroup l s g
  nodup := (List.nodup_cons.1 h.nodup).2
  group k hk := by
    have hne : k ≠ g := fun e => (List.nodup_cons.1 h.nodup).1 (e ▸ hk)
    rw [group?_endGroup_of_ne hne, h.group k (List.mem_cons_of_mem _ hk)]
  member k hk m hm := by
    have hne : k ≠ g := fun e => (List.nodup_cons.1 h.nodup).1 (e ▸ hk)
    have hnot : m ∉ s.members g := fun hg => hne (hlaw.members_disjoint hm hg)
    rw [channel?_endGroup_of_not_mem hnot ((h.chains.members g).symm ▸ hnot), h.member k (List.mem_cons_of_mem _ hk) m hm]

/-- R128: what an ended group leaves in the journals, and PIN_FAULT for the consumer of its pin. -/
theorem Unended.reports {s u : State} {g : Nat} {gs : List Nat} (h : Unended s u (g :: gs)) (l : Load) :
    Reports u (Machine.endGroup l s u g) (fun x => endedGroupRecords s l x g)
      (fun x => causeIf .pinFault (releasesPin s l g x)) [] := by
  have hquiet := (tells_refl u).toReports
  cases hg : s.group? g with
  | none =>
    have hsame : Machine.endGroup l s u g = u := by simp only [Machine.endGroup, hg]
    rw [hsame]
    exact hquiet.congr (fun x => by simp only [endedGroupRecords, hg]) fun x => by simp [releasesPin, hg, causeIf]
  | some gr =>
    cases hk : carriesGroup s l g with
    | true =>
      rw [endGroup_of_carried hk]
      exact hquiet.congr (fun x => by simp [endedGroupRecords, hg, hk]) fun x => by simp [releasesPin, hk, causeIf]
    | false =>
      have hstep : Machine.endGroup l s u g = (s.members g).foldl (dropMemberPending l s) (releasePin g true u) := by
        simp only [Machine.endGroup, hg, hk, Bool.false_eq_true, if_false]
      have hgu : u.group? g = some gr := (h.group g List.mem_cons_self).trans hg
      have hmask : u.freedMask g = s.freedMask g := by
        unfold State.freedMask
        rw [h.chains.members]
        congr 1
        refine List.filter_congr fun m hm => ?_
        rw [State.holdsOld, State.holdsOld, h.member g List.mem_cons_self m hm]
      have hconsumer : u.groupConsumer g = s.groupConsumer g := congrArg Port.other (h.chains.groupProducer g)
      have hpin := reports_releasePin g u
      rw [hmask, hconsumer, hgu, h.clock] at hpin
      have hmembers := Reports.foldl_records (fun v m hv => reports_dropMemberPending (s := s) l hv m) (s.members g)
        (releasePin g true u) ((releasePin_only g true u).clock.trans h.clock)
      rw [hstep]
      refine (hpin.trans hmembers).congr (fun x => endedGroupRecords_of_ends hg hk x) fun x => ?_
      by_cases hx : x = s.groupConsumer g
      · simp [releasesPin, hg, hk, onlyTo, hx]
      · simp [releasesPin, hg, hk, onlyTo, hx, Ne.symm hx, causeIf]

/-- R126, R128: what the endings leave in the journals, channels first, and the pins they release. -/
theorem reports_endOldSet {s : State} (hlaw : ChainLaw s) (l : Load) :
    Reports s (endOldSet l s)
      (fun x => indices.flatMap (endedChannelRecords s l x) ++ indices.flatMap (endedGroupRecords s l x))
      (fun x => causeIf .pinFault (releasesPinOf s l x)) [] := by
  have hchannels := Reports.foldl_records (fun u n hu => reports_endChannel (s := s) l hu n) indices s rfl
  have hstart : Unended s (indices.foldl (endChannel l s) s) indices :=
    ⟨hchannels.clock, sameChains_endChannels l s, List.nodup_range,
      fun g _ => group?_congr (foldl_field State.groups _ (groups_endChannel l s) _ s) g,
      fun _ _ m _ => channel?_congr (foldl_field State.channels _ (channels_endChannel l s) _ s) m⟩
  have hgroups := Reports.foldl (I := fun gs u => Unended s u gs)
    (fun g gs u hu => ⟨Unended.reports hu l, Unended.endGroup hu hlaw l⟩) indices _ hstart
  exact (hchannels.trans hgroups).congr (fun _ => rfl) fun x => by
    rw [releasesPinOf_eq]
    exact BitVec.zero_or.symm

/-! ### The new set and the end of the load (R123, R125, R129) -/

/-- R126, R128: settling the status blocks tells nothing. -/
theorem reports_settleBlocks (l : Load) (s0 s : State) :
    Reports s (settleBlocks l s0 s) (fun _ => []) (fun _ => 0) [] := by
  have hclock : ∀ i a b (u : State), (u.settleBlock i a b).clock = u.clock := by
    intro i a b u
    cases a <;> cases b <;> rfl
  have htold : ∀ i a b (u : State), (u.settleBlock i a b).journals = u.journals ∧
      (u.settleBlock i a b).attention = u.attention := by
    intro i a b u
    cases a <;> cases b <;> exact ⟨rfl, rfl⟩
  have hsettle : ∀ i a b (u : State), i.isBlock = true →
      Reports u (u.settleBlock i a b) (fun _ => []) (fun _ => 0) [] := fun i a b u hi =>
    .of_spares (hclock i a b u) (htold i a b u).1 (htold i a b u).2 (spares_settleBlock (by simp [hi]) a b)
  have hchannels := Reports.foldl_records (f := settleChanBlock l s0) (fun u n _ =>
    settleChanBlock_eq l s0 u n ▸ hsettle (.chanBlock n) _ _ u rfl) indices s rfl
  have hgroups := Reports.foldl_records (f := settleGroupBlock l s0) (fun u g _ =>
    settleGroupBlock_eq l s0 u g ▸ hsettle (.groupBlock g) _ _ u rfl) indices _ hchannels.clock
  exact (hchannels.trans hgroups).congr (fun _ => by simp) fun _ => by simp

theorem reports_offerBoth (s : State) (r : Record) : Reports s (s.offerBoth r) (fun _ => [r]) (fun _ => 0) [] :=
  ((tells_offer s .A r).trans (tells_offer _ .B r)).toReports.congr (fun p => by cases p <;> simp [onlyTo])
    fun _ => by simp

theorem reports_raiseBoth (s : State) (k : Cause) : Reports s (s.raiseBoth k) (fun _ => []) (fun _ => k.bit) [] :=
  ((tells_raise s .A k).trans (tells_raise _ .B k)).toReports.congr (fun _ => rfl)
    fun p => by cases p <;> simp [onlyTo]

/-- R125: a channel created and resumed tells both ports. -/
theorem reports_offerResumed {s u : State} (l : Load) (hu : u.clock = s.clock) (n : Nat) :
    Reports u (offerResumed l s u n) (fun _ => resumedRecords s l n) (fun _ => 0) [] := by
  have hquiet := (tells_refl u).toReports
  have hword : (0#16 ++ (l.chan n).signature : BitVec (16 + 16)) = (l.chan n).signature.setWidth 32 :=
    (BitVec.setWidth_eq_append (by decide)).symm
  unfold offerResumed resumedRecords
  cases (l.chan n).valid && !carriesChannel s l n with
  | false => exact hquiet
  | true =>
    cases l.resumed n with
    | none => exact hquiet
    | some b =>
      simp only [if_true, hword, hu]
      exact reports_offerBoth u _

/-- R129, R130: the result of a load goes to B2 and B3, and its COMMIT record to both ports. -/
theorem reports_reportLoadEnd (l : Load) (c : ResultCode) (d : Detail) (s : State) :
    Reports s (reportLoadEnd l c d s) (fun _ => [commitRecord { gen := l.gen, code := c, detail := d } l.start s.clock])
      (fun _ => Cause.commit.bit) [.part 2, .part 3] := by
  have hresult : Reports s { s with lastResult := { gen := l.gen, code := c, detail := d } } (fun _ => []) (fun _ => 0) [] :=
    .of_spares rfl rfl rfl (.of_mirror rfl)
  have hparts := (hresult.trans (tells_mark _ (.part 2)).toReports).trans (tells_mark _ (.part 3)).toReports
  exact ((hparts.trans (reports_offerBoth _ _)).trans (reports_raiseBoth _ .commit)).congr (fun _ => by simp)
    fun _ => by simp

/-- R113: the Loader when a load has ended. -/
def State.nextLoader (s : State) : LoaderState :=
  match s.remembered with
  | some gen => .reading (newLoad gen s.clock)
  | none => .idle

theorem continueLoader_eq (s : State) :
    continueLoader s = { s with loader := s.nextLoader, remembered := none }.mark (.part 1) := by
  unfold continueLoader State.nextLoader
  cases s.remembered <;> rfl

theorem reports_continueLoader (s : State) :
    Reports s (continueLoader s) (fun _ => []) (fun _ => 0) [.part 1] := by
  have hloader : Reports s { s with loader := s.nextLoader, remembered := none } (fun _ => []) (fun _ => 0) [] :=
    .of_spares rfl rfl rfl (.of_mirror rfl)
  rw [continueLoader_eq]
  exact hloader.trans (tells_mark _ (.part 1)).toReports

/-- R129: what an install tells after the endings. -/
theorem reports_newSet (l : Load) (s : State) : Reports (endOldSet l s) (installed l s)
    (fun _ => indices.flatMap (resumedRecords s l) ++
      [commitRecord { gen := l.gen, code := .ok, detail := Detail.nothing } l.start s.clock])
    (fun _ => Cause.commit.bit) [.part 2, .part 3, .part 4, .part 1] := by
  have hset : Reports (endOldSet l s) (takeNewSet l s (endOldSet l s)) (fun _ => []) (fun _ => 0) [] :=
    .of_spares rfl rfl rfl (.of_mirror rfl)
  have hblocks := hset.trans (reports_settleBlocks l s _)
  have hresumed := hblocks.trans (Reports.foldl_records (fun u n hu => reports_offerResumed (s := s) l hu n) indices _
    (hblocks.clock.trans clock_endOldSet))
  have hend := hresumed.trans (reports_reportLoadEnd l .ok Detail.nothing _)
  have hparts := (hend.trans (tells_mark _ (.part 4)).toReports).trans (reports_continueLoader _)
  rw [hresumed.clock, clock_endOldSet] at hparts
  exact hparts.congr (fun _ => by simp) fun _ => by simp

/-- R129: what an install tells, in its order. -/
theorem reports_installed {s : State} (hlaw : ChainLaw s) (l : Load) : Reports s (installed l s) (installRecords s l)
    (fun x => Cause.commit.bit ||| causeIf .pinFault (releasesPinOf s l x)) [.part 2, .part 3, .part 4, .part 1] :=
  ((reports_endOldSet hlaw l).trans (reports_newSet l s)).congr
    (fun x => by
      simp only [installRecords, List.append_assoc]
      rfl)
    fun _ => BitVec.or_comm _ _

end Sys2Proof.Machine

/-! SUPPORT. The settings that an install takes (R123), and what it leaves alone. -/
namespace Sys2Proof.Machine

section Settings
variable (l : Load) (s : State)

theorem State.nextLoader_congr {s t : State} (hr : t.remembered = s.remembered) (hc : t.clock = s.clock) :
    t.nextLoader = s.nextLoader := by
  unfold State.nextLoader
  rw [hr, hc]

/-- R129, R130: the report of a load's end changes no port, and not what the Loader does next. -/
theorem reportLoadEnd_fields (c : ResultCode) (d : Detail) : (reportLoadEnd l c d s).ports = s.ports ∧
    (reportLoadEnd l c d s).nextLoader = s.nextLoader ∧
    (reportLoadEnd l c d s).lastResult = { gen := l.gen, code := c, detail := d } := by
  unfold reportLoadEnd State.raiseBoth State.offerBoth
  exact ⟨by simp, State.nextLoader_congr (by simp) (by simp), by simp⟩

theorem continueLoader_fields : (continueLoader s).ports = s.ports ∧ (continueLoader s).loader = s.nextLoader ∧
    (continueLoader s).remembered = none ∧ (continueLoader s).lastResult = s.lastResult := by
  rw [continueLoader_eq]
  exact ⟨rfl, rfl, rfl, rfl⟩

/-- The status blocks and the RESUMED records after the new set is taken. -/
theorem resumed_only : OnlyExchange (takeNewSet l s (endOldSet l s))
    (indices.foldl (offerResumed l s) (settleBlocks l s (takeNewSet l s (endOldSet l s)))) :=
  OnlyExchange.foldl _ (offerResumed_only l s) indices
    (OnlyExchange.foldl _ (settleGroupBlock_only l s) _ (OnlyExchange.foldl _ (settleChanBlock_only l s) _ (.refl _)))

/-- R113, R123: the ports, the Loader and the result after an install. -/
theorem ports_loader_result_installed : (installed l s).ports =
      { a := { s.ports.a with faultSignal := (paramFaultSignal l.param .A).getD false }
        b := { s.ports.b with faultSignal := (paramFaultSignal l.param .B).getD false } } ∧
    (installed l s).loader = s.nextLoader ∧ (installed l s).remembered = none ∧
    (installed l s).lastResult = { gen := l.gen, code := .ok, detail := Detail.nothing } := by
  have hend := endOldSet_only l s
  have hresumed := resumed_only l s
  obtain ⟨hports, hloader, hresult⟩ := reportLoadEnd_fields l
    (indices.foldl (offerResumed l s) (settleBlocks l s (takeNewSet l s (endOldSet l s)))) .ok Detail.nothing
  unfold installed
  obtain ⟨hports', hloader', hremembered', hresult'⟩ := continueLoader_fields ((reportLoadEnd l .ok Detail.nothing
    (indices.foldl (offerResumed l s) (settleBlocks l s (takeNewSet l s (endOldSet l s))))).mark (.part 4))
  refine ⟨?_, ?_, hremembered', hresult'.trans ((State.mark_lastResult _ _).trans hresult)⟩
  · rw [hports', State.mark_ports, hports, hresumed.ports, ← hend.ports]
    rfl
  · rw [hloader', State.nextLoader_congr (State.mark_remembered _ _) (State.mark_clock _ _), hloader]
    exact State.nextLoader_congr (hresumed.remembered.trans hend.remembered) (hresumed.clock.trans hend.clock)

theorem faultSignalCode_getD (c : BitVec 2) : (faultSignalCode c).getD false = true ↔ c = 0b10#2 := by
  revert c
  decide

theorem access_installed (p : Port) : (installed l s).access p = s.access p ∧
    ((installed l s).ports.get p).req = (s.ports.get p).req := by
  unfold State.access
  rw [(ports_loader_result_installed l s).1]
  cases p <;> exact ⟨rfl, rfl⟩

theorem region?_installed (i : Nat) :
    (installed l s).region? i = if i < 16 then installedRegion (l.region i) else none := by
  have hregions : (installed l s).regions = fillVector 16 fun k => installedRegion (l.region k) :=
    (installed_only l s).regions
  unfold State.region?
  rw [hregions, getElem?_fillVector]
  split <;> rfl

end Settings

/-- Settles O45: the records of the endings and of the new set in their order, and the fields of the new set. -/
theorem anInstallTakesTheNewSettings : Obligations.AnInstallTakesTheNewSettings := by
  intro s l hl hfree
  have hend := endOldSet_only l s
  have hnew := installed_only l s
  obtain ⟨hports, hloader, hremembered, hresult⟩ := ports_loader_result_installed l s
  refine ⟨installed l s, exec_install hl hfree, fun i hi hv => ?_, fun i ra rb hi hv hra hrb => ?_, fun hlaw p => ?_,
    fun hlaw i hi => ?_, sequencesKept_installed, hnew.mapState, hnew.partState, hnew.installedGen, hresult,
    hnew.divisor, hnew.prescaler, hnew.clock.trans hend.clock, ?_, ?_, access_installed l s, hloader, hremembered,
    fun n hn => ?_, hnew.mem.trans hend.mem, hnew.cycle.trans hend.cycle, hnew.lastGranted.trans hend.lastGranted,
    hnew.pins.trans hend.pins, hnew.msz.trans hend.msz, hnew.configPort.trans hend.configPort,
    hnew.pending.trans hend.pending⟩
  · rw [region?_installed, if_pos hi, installedRegion, hv]
    rfl
  · rw [region?_installed, if_pos hi, installedRegion, hv, hra, hrb]
    rfl
  · exact ⟨(reports_installed hlaw l).journal p, (reports_installed hlaw l).attention p⟩
  · have hblock : i.isBlock = false := by
      cases i with
      | chanBlock n => exact absurd rfl (hi n).1
      | groupBlock n => exact absurd rfl (hi n).2
      | _ => rfl
    rw [(reports_installed hlaw l).marked i hblock]
    have hparts : i ∈ ([.part 2, .part 3, .part 4, .part 1] : List MirrorItem) ↔
        i ∈ ([.part 1, .part 2, .part 3, .part 4] : List MirrorItem) := by
      simp only [List.mem_cons]
      tauto
    simp only [List.mem_append, hparts]
    rfl
  · rw [hports]
    exact faultSignalCode_getD _
  · rw [hports]
    exact faultSignalCode_getD _
  · have hpart : (MirrorItem.part n).isBlock = false := rfl
    rw [(reports_newSet l s).marked _ hpart]
    refine .inr (List.mem_append_left _ (List.mem_append_left _ ?_))
    simp only [List.mem_cons, MirrorItem.part.injEq] at hn ⊢
    tauto

end Sys2Proof.Machine

/-! SUPPORT. Where a logical address lands (R72, R75, R76, R83) and what the decode makes of it (R77 to R81, R84); then an
access that the map allows, or refuses, as a whole event. -/
namespace Sys2Proof.Machine

/-! ### Port commands (R72, R92) -/

/-- An access presented at a port, whatever the name of its command: the effects of its arrival on the settled state, the
report words, the grant. -/
theorem exec_portAccessTake (p : Port) (d : Drive) (s : State) :
    exec (.portAccessTake p d) s = .next (grant (noteReports (settle s) (present p d (settle s)))) := rfl

/-- Settles O4: the meaning of every port command presents the access that it drives. -/
theorem everyPortCommandPresentsItsAccess : Obligations.EveryPortCommandPresentsItsAccess := by
  intro i p d s h
  cases i
  case resetRelease | fillExpiry | freshnessDeadlineReached | pinRelease | partialPublication | frameTick | reqFall |
      cyclelessCompletion | memoryCycleEnd | install | tick | tclkEdge | holdoverStart | resetAssert => cases h
  all_goals
    cases h
    rfl

/-! ### Windows (R76, R83) -/

theorem inWindow_iff {base len a : Nat} : inWindow base len a = true ↔ base ≤ a ∧ a < base + len := by
  simp [inWindow]

/-- The channel found at an address is installed, and its window holds the address. -/
theorem channelAt_eq_some {s : State} {a n : Nat} (h : s.channelAt a = some n) :
    ∃ c, s.channel? n = some c ∧ c.desc.lbase ≤ a ∧ a < c.desc.lbase + c.desc.len := by
  have hn := List.find?_some h
  split at hn
  · rename_i c hc
    exact ⟨c, hc, inWindow_iff.1 hn⟩
  · cases hn

theorem not_inWindow_of_channelAt_eq_none {s : State} {a n : Nat} {c : Channel} (h : s.channelAt a = none)
    (hc : s.channel? n = some c) : ¬ (c.desc.lbase ≤ a ∧ a < c.desc.lbase + c.desc.len) := by
  have hn := List.find?_eq_none.1 h n (mem_indices.2 (State.channel?_lt hc))
  simpa only [hc, inWindow_iff] using hn

/-- The region found at an address is valid, and its window holds the address. -/
theorem regionAt_eq_some {s : State} {a r : Nat} (h : s.regionAt a = some r) :
    ∃ g, s.region? r = some g ∧ g.lbase.toNat ≤ a ∧ a < g.lbase.toNat + g.len.toNat := by
  have hr := List.find?_some h
  split at hr
  · rename_i g hg
    exact ⟨g, hg, inWindow_iff.1 hr⟩
  · cases hr

theorem not_inWindow_of_regionAt_eq_none {s : State} {a r : Nat} {g : Region} (h : s.regionAt a = none)
    (hg : s.region? r = some g) : ¬ (g.lbase.toNat ≤ a ∧ a < g.lbase.toNat + g.len.toNat) := by
  have hr := List.find?_eq_none.1 h r (List.mem_range.2 (State.region?_lt hg))
  simpa only [hg, inWindow_iff] using hr

/-! ### Landings (R72, R75, R76) -/

theorem landing_of_control {s : State} {a : LogAddr} (h : a.toNat ≤ 0xFFF) : landing s a = .control a.toNat := if_pos h

theorem landing_of_unconfigured {s : State} {a : LogAddr} (h : 0xFFF < a.toNat) (hm : s.mapState = .unconfigured) :
    landing s a = identityLanding s a := by
  rw [landing, if_neg (Nat.not_le.2 h), hm]

theorem landing_of_installed {s : State} {a : LogAddr} (h : 0xFFF < a.toNat) (hm : s.mapState = .installed) :
    landing s a = installedLanding s a := by
  rw [landing, if_neg (Nat.not_le.2 h), hm]

theorem installedLanding_of_channel {s : State} {a : LogAddr} {n : Nat} {c : Channel} (hn : s.channelAt a.toNat = some n)
    (hc : s.channel? n = some c) : installedLanding s a = .channel n (a.toNat - c.desc.lbase) := by
  simp only [installedLanding, hn, hc]

theorem installedLanding_of_region {s : State} {a : LogAddr} {r : Nat} {g : Region} (hn : s.channelAt a.toNat = none)
    (hr : s.regionAt a.toNat = some r) (hg : s.region? r = some g) :
    installedLanding s a = .plain r (g.pbase + (a - g.lbase).setWidth 17) g := by
  simp only [installedLanding, hn, hr, hg]
  rfl

theorem installedLanding_of_none {s : State} {a : LogAddr} (hn : s.channelAt a.toNat = none)
    (hr : s.regionAt a.toNat = none) : installedLanding s a = .unmapped := by
  simp only [installedLanding, hn, hr]

/-- What each landing says of the address. -/
theorem landing_cases (s : State) (a : LogAddr) :
    (a.toNat ≤ 0xFFF ∧ landing s a = .control a.toNat) ∨
    (0xFFF < a.toNat ∧ s.mapState = .unconfigured ∧
      landing s a = if a.toNat < fittedWords s.msz then .identity (a.setWidth 17) else .absent) ∨
    (0xFFF < a.toNat ∧ s.mapState = .installed ∧ ((∃ n c, s.channelAt a.toNat = some n ∧ s.channel? n = some c ∧
        landing s a = .channel n (a.toNat - c.desc.lbase)) ∨
      (s.channelAt a.toNat = none ∧ ∃ r g, s.regionAt a.toNat = some r ∧ s.region? r = some g ∧
        landing s a = .plain r (g.pbase + (a - g.lbase).setWidth 17) g) ∨
      (s.channelAt a.toNat = none ∧ s.regionAt a.toNat = none ∧ landing s a = .unmapped))) := by
  by_cases ha : a.toNat ≤ 0xFFF
  · exact .inl ⟨ha, landing_of_control ha⟩
  have hlt := Nat.not_le.1 ha
  refine .inr ?_
  cases hm : s.mapState with
  | unconfigured => exact .inl ⟨hlt, rfl, landing_of_unconfigured hlt hm⟩
  | installed =>
    refine .inr ⟨hlt, rfl, ?_⟩
    rw [landing_of_installed hlt hm]
    cases hn : s.channelAt a.toNat with
    | some n =>
      obtain ⟨c, hc, -⟩ := channelAt_eq_some hn
      exact .inl ⟨n, c, rfl, hc, installedLanding_of_channel hn hc⟩
    | none =>
      cases hr : s.regionAt a.toNat with
      | some r =>
        obtain ⟨g, hg, -⟩ := regionAt_eq_some hr
        exact .inr (.inl ⟨rfl, r, g, rfl, hg, installedLanding_of_region hn hr hg⟩)
      | none => exact .inr (.inr ⟨rfl, rfl, installedLanding_of_none hn hr⟩)

/-- R76: an access lands in a channel's window at its offset from the logical base. -/
theorem landing_eq_channel_iff {s : State} {a : LogAddr} {n off : Nat} : landing s a = .channel n off ↔ 0xFFF < a.toNat ∧
    s.mapState = .installed ∧ s.channelAt a.toNat = some n ∧ ∃ c, s.channel? n = some c ∧ off = a.toNat - c.desc.lbase := by
  constructor
  · intro h
    rcases landing_cases s a with ⟨-, hl⟩ | ⟨-, -, hl⟩ | ⟨ha, hm, ⟨m, c, hn, hc, hl⟩ | ⟨-, r, g, -, -, hl⟩ | ⟨-, -, hl⟩⟩ <;>
      rw [hl] at h
    · cases h
    · split at h <;> cases h
    · cases h
      exact ⟨ha, hm, hn, c, hc, rfl⟩
    · cases h
    · cases h
  · rintro ⟨ha, hm, hn, c, hc, rfl⟩
    rw [landing_of_installed ha hm, installedLanding_of_channel hn hc]

theorem Rights.allow_iff {r : Rights} {wr : Bool} : r.allow wr = true ↔ r = .readWrite ∨ (r = .read ∧ wr = false) := by
  cases r <;> simp [Rights.allow]

/-! ### An access that only its port sees (R72, R73, R92) -/

/-- R92: the event of an access that is taken with a decode result that has no effect but on its port. -/
theorem exec_of_taken {s : State} {p : Port} {d : Drive} {o : Decoded} (ht : Takes (settle s) p)
    (h : decodeAndAct p d (drivePort p d (settle s)) = (drivePort p d (settle s), o)) (ho : o.isViolation = false) :
    exec (.portAccessTake p d) s = .next (grant ((settle s).taking p d o false)) := by
  rw [exec_portAccessTake, present_of_takes ht, take_of_allowed h ho]
  exact congrArg (fun w => Host.Outcome.next (grant w)) (noteReports_taking (settle s) p d o false)

/-- Settles O11: each landing decodes to the outcome of its name. -/
theorem addressesOutsideTheControlAreaLandByTheMap : Obligations.AddressesOutsideTheControlAreaLandByTheMap := by
  refine ⟨fun s a => ⟨fun _ => channelAt_eq_some, fun h _ _ => not_inWindow_of_channelAt_eq_none h,
    fun _ => regionAt_eq_some, fun h _ _ => not_inWindow_of_regionAt_eq_none h⟩, fun _ _ _ _ => landing_eq_channel_iff,
    fun _ _ => Rights.allow_iff, ?_⟩
  intro s p d u ht ha
  have hact : ∀ o, landing u d.addr = o → landing (drivePort p d u) d.addr = o := fun _ => id
  refine ⟨fun hm hlt => ?_, fun hm hle => ?_, fun r g hm hn hr hg hallow => ?_, fun hm hn hr => ?_, fun e => ?_⟩
  · have hl := hact _ ((landing_of_unconfigured ha hm).trans (if_pos hlt))
    exact exec_of_taken ht (by rw [decodeAndAct, hl]) rfl
  · have hl := hact _ ((landing_of_unconfigured ha hm).trans (if_neg (Nat.not_lt.2 hle)))
    exact exec_of_taken ht (by rw [decodeAndAct, hl]) rfl
  · have hl := hact _ ((landing_of_installed ha hm).trans (installedLanding_of_region hn hr hg))
    exact exec_of_taken ht (by rw [decodeAndAct, hl]; simp only [decodePlain, hallow, if_true, actOnTake]) rfl
  · have hl := hact _ ((landing_of_installed ha hm).trans (installedLanding_of_none hn hr))
    exact exec_of_taken ht (by rw [decodeAndAct, hl]) rfl
  · constructor <;> simp [portWaits, State.taking, Decoded.phys?]

end Sys2Proof.Machine

/-! SUPPORT. The control area by ownership class (R77 to R80), and the accesses that the map refuses (R87 to R89). -/
namespace Sys2Proof.Machine

/-! ### Ownership classes (R77) -/

theorem wordClass_partOwned_iff {n : Nat} : wordClass n = .partOwned ↔ n ≤ 0x004 ∨ n = 0x020 ∨ n = 0x021 ∨ n = 0x028 ∨
    n = 0x029 ∨ (0x200 ≤ n ∧ n ≤ 0x28F) ∨ (0x400 ≤ n ∧ n ≤ 0x7FF) := by
  fun_cases wordClass n
  all_goals
    simp only [reduceCtorEq, true_iff, false_iff]
    omega

theorem wordClass_table_iff {n : Nat} : wordClass n = .table ↔ n = 0x010 ∨ (0x040 ≤ n ∧ n ≤ 0x19F) := by
  fun_cases wordClass n
  all_goals
    simp only [reduceCtorEq, true_iff, false_iff]
    omega

/-- R80: the trigger words are those of the trigger addresses. -/
theorem wordClass_trigger_iff {n : Nat} {t : Trigger} : wordClass n = .trigger t ↔ n = (triggerAddr t).toNat := by
  constructor
  · fun_cases wordClass n
    all_goals
      intro h
      cases h
    all_goals assumption
  · rintro rfl
    cases t with
    | commit => rfl
    | enable p => cases p <;> rfl
    | ack p => cases p <;> rfl
    | jread p => cases p <;> rfl
    | rearm p => cases p <;> rfl

/-! ### The decode of an access to a control word (R77 to R80) -/

theorem ctl_toNat (a : LogAddr) : ctl a.toNat = a.setWidth 17 := BitVec.ofNat_toNat 17 a

/-- R77, R78, R80: the accesses to a control word that are allowed and taken by no trigger's owner. -/
theorem decodeControl_of_allowed {s : State} {p : Port} {d : Drive} {n : Nat}
    (h : d.wr = false ∨ wordClass n = .user ∨ (wordClass n = .table ∧ p = s.configPort) ∨
      (∃ t, wordClass n = .trigger t ∧ p = t.owner s.configPort ∧ d.lanes ≠ 0xF)) :
    decodeControl s p d n = .control (wordClass n) false (ctl n) := by
  unfold decodeControl
  cases hwr : d.wr with
  | false => rfl
  | true =>
    rcases h with h | h | ⟨h, hp⟩ | ⟨t, h, hp, hlanes⟩
    · cases hwr.symm.trans h
    · simp [h]
    · simp [h, hp]
    · have htake : isTriggerTake d = false := by
        rw [isTriggerTake, beq_false_of_ne hlanes, Bool.and_false]
      simp [h, ← hp, htake]

/-- R78 to R80: the writes to a control word that are refused. -/
theorem decodeControl_of_refused {s : State} {p : Port} {d : Drive} {n : Nat} (hwr : d.wr = true) :
    (wordClass n = .partOwned → decodeControl s p d n = .violation .owned none) ∧
    (wordClass n = .table → p ≠ s.configPort → decodeControl s p d n = .violation .table none) ∧
    (∀ t, wordClass n = .trigger t → p ≠ t.owner s.configPort →
      decodeControl s p d n = .violation .foreignTrigger none) := by
  unfold decodeControl
  refine ⟨fun h => ?_, fun h hp => ?_, fun t h hp => ?_⟩
  · simp [hwr, h]
  · simp [hwr, h, hp]
  · simp [hwr, h, hp]

/-- Settles O10: an allowed access that no trigger's owner takes decodes to its class and its own address. -/
theorem controlWordsAreReachedByTheirClass : Obligations.ControlWordsAreReachedByTheirClass := by
  refine ⟨fun n _ => ⟨wordClass_partOwned_iff, wordClass_table_iff, fun t => ?_⟩, fun t x => by cases t <;> rfl, ?_⟩
  · rw [wordClass_trigger_iff]
    cases t with
    | commit => exact Iff.rfl
    | enable x => cases x <;> exact Iff.rfl
    | ack x => cases x <;> exact Iff.rfl
    | jread x => cases x <;> exact Iff.rfl
    | rearm x => cases x <;> exact Iff.rfl
  · intro s p d u ht ha hallowed
    have hl : landing (drivePort p d u) d.addr = .control d.addr.toNat := landing_of_control ha
    refine exec_of_taken ht ?_ rfl
    rw [decodeAndAct, hl]
    dsimp only
    rw [decodeControl_of_allowed (s := drivePort p d u) hallowed, ctl_toNat]
    cases wordClass d.addr.toNat <;> rfl

/-! ### A refused access (R87 to R89) -/

/-- R88, R180: the bits of a VIOLATION record. -/
theorem violationRecord_fields (k : ViolationKind) (subject : Nat) (region : Option Nat) (d : Drive) (now : Word) :
    ∃ (flags : BitVec 12) (arg : Word),
      violationRecord k subject region d now = mkRecord .violation subject none flags arg now 0 ∧
      flags.extractLsb' 0 3 = k.code ∧ flags.getLsbD 3 = d.wr ∧ flags.extractLsb' 4 4 = (if d.wr then d.lanes else 0) ∧
      flags.extractLsb' 8 4 = 0 ∧ arg.extractLsb' 0 16 = d.addr ∧
      arg.extractLsb' 16 4 = BitVec.ofNat 4 (region.getD 0) ∧ arg.extractLsb' 20 12 = 0 := by
  have hflags : ∀ (lanes : Lanes) (wr : Bool) (code : BitVec 3),
      let flags : BitVec 12 := (0#4 ++ lanes ++ BitVec.ofBool wr ++ code : BitVec (4 + 4 + 1 + 3))
      flags.extractLsb' 0 3 = code ∧ flags.getLsbD 3 = wr ∧ flags.extractLsb' 4 4 = lanes ∧ flags.extractLsb' 8 4 = 0 := by
    decide
  have harg : ∀ (index : BitVec 4),
      let arg : Word := (0#12 ++ index ++ d.addr : BitVec (12 + 4 + 16))
      arg.extractLsb' 0 16 = d.addr ∧ arg.extractLsb' 16 4 = index ∧ arg.extractLsb' 20 12 = 0 := by
    intro index
    exact ⟨BitVec.extractLsb'_append_eq_right,
      (BitVec.extractLsb'_append_eq_of_le (by decide)).trans BitVec.extractLsb'_append_eq_right,
      (BitVec.extractLsb'_append_eq_of_le (by decide)).trans BitVec.extractLsb'_append_eq_left⟩
  obtain ⟨hcode, hwr, hlanes, hrest⟩ := hflags (if d.wr then d.lanes else 0) d.wr k.code
  obtain ⟨haddr, hindex, hhigh⟩ := harg (BitVec.ofNat 4 (region.getD 0))
  exact ⟨_, _, rfl, hcode, hwr, hlanes, hrest, haddr, hindex, hhigh⟩

theorem tells_setAccess (s : State) (p : Port) (a : AccessState) :
    Tells s (s.setAccess p a) (fun _ => []) (fun _ => 0) [] := .of_marks rfl rfl rfl (marks_setAccess s p a)

theorem tells_violate (p : Port) (d : Drive) (k : ViolationKind) (n : Nat) (r : Option Nat) (s : State) :
    Tells s (violate p d k n r s) (onlyTo p [] [violationRecord k n r d s.clock]) (onlyTo p 0 Cause.violation.bit) [] :=
  ((tells_offer s p _).trans (tells_raise _ p .violation)).congr (fun q => by unfold onlyTo; split <;> rfl) (fun q => by simp)
    fun i => by simp

/-- R87: the decode of a refused access: the violation is reported, and nothing else happens. -/
theorem decodeAndAct_of_refuses {s : State} {p : Port} {d : Drive} {k : ViolationKind} {n : Nat} {r : Option Nat}
    (h : Refuses s p d k n r) : decodeAndAct p d s = (violate p d k n r s, .violation k r) := by
  have hcontrol : d.addr.toNat ≤ 0xFFF → n = 0 → r = none → decodeControl s p d d.addr.toNat = .violation k none →
      decodeAndAct p d s = (violate p d k n r s, .violation k r) := by
    rintro ha rfl rfl ho
    rw [decodeAndAct, landing_of_control ha]
    dsimp only
    rw [ho]
    rfl
  cases k with
  | owned =>
    obtain ⟨hwr, ha, hclass, hn, hr⟩ := h
    exact hcontrol ha hn hr ((decodeControl_of_refused hwr).1 hclass)
  | table =>
    obtain ⟨hwr, ha, hclass, hp, hn, hr⟩ := h
    exact hcontrol ha hn hr ((decodeControl_of_refused hwr).2.1 hclass hp)
  | foreignTrigger =>
    obtain ⟨hwr, ha, ⟨t, hclass, hp⟩, hn, hr⟩ := h
    exact hcontrol ha hn hr ((decodeControl_of_refused hwr).2.2 t hclass hp)
  | rights =>
    obtain ⟨i, phys, g, hl, hallow, rfl, rfl⟩ := h
    rw [decodeAndAct, hl]
    simp only [decodePlain, hallow, Bool.false_eq_true, if_false, actOnTake]
  | consumerWrite =>
    obtain ⟨hwr, ⟨off, c, hl, hc, hp⟩, rfl⟩ := h
    rw [decodeAndAct, hl]
    simp only [takeChannel, hc, hp, if_false, hwr, if_true]

/-- R87 to R89: the arrival of a refused access, with the report words that it changes. -/
theorem present_of_refuses {u : State} {p : Port} {d : Drive} {k : ViolationKind} {n : Nat} {r : Option Nat}
    (ht : Takes u p) (h : Refuses u p d k n r) :
    let rs := [violationRecord k n r d u.clock]
    ∃ w, noteReports u (present p d u) = w ∧
      w = { u.taking p d (.violation k r) (u.ports.get p).faultSignal with
        journals := u.journals.set p (offers u.clock (u.journals.get p) rs)
        attention := u.attention.modify p fun a => a.told Cause.violation.bit u.clock (u.journals.get p) rs
        mirror := w.mirror } ∧
      Marks u w (offersMark u.clock p (u.journals.get p) rs ++ changedReports u w) := by
  intro rs
  let x := drivePort p d u
  let t : Taken := { drive := d, outcome := .violation k r, err := (u.ports.get p).faultSignal, withdrawn := false }
  let b := x.setAccess p (.taken t)
  let e := (violate p d k n r x).setAccess p (.taken t)
  have htake : present p d u = e := by
    have hfault : (x.ports.get p).faultSignal = (u.ports.get p).faultSignal := by
      simp [x, drivePort]
    rw [present_of_takes ht, take, decodeAndAct_of_refuses (s := x) h, hfault]
    rfl
  have hpend : ∀ q, pendingSet b q = pendingSet u q := pendingSet_of_fields rfl rfl rfl rfl
  have hnote : noteReports u (present p d u) = noteReports b e := by
    simp only [noteReports, noteReport, hpend, htake]
  have hback : Tells b x (fun _ => []) (fun _ => 0) [] := .of_marks rfl rfl rfl (Marks.of_mirror rfl)
  have htells : Tells b e (onlyTo p [] rs) (onlyTo p 0 Cause.violation.bit) [] :=
    ((hback.trans (tells_violate p d k n r x)).trans (tells_setAccess _ p (.taken t))).congr
      (fun q => by simp only [List.nil_append, List.append_nil]; rfl) (fun q => by simp) fun i => by simp
  obtain ⟨hw, hmarks⟩ := noteReports_of_tells ((violate_only p d k n r x).congr_setAccess p (.taken t)) htells
  rw [channels_noteReports, groups_noteReports] at hw
  refine ⟨_, hnote, hw.trans ?_, ?_⟩
  · have hchannels : e.channels = u.channels := channels_violate p d k n r x
    rw [hchannels]
    rfl
  · refine (Marks.of_mirror (s := u) (t := b) rfl).trans hmarks |>.congr fun i => ?_
    rw [changedReports_congr (b' := u) (s' := noteReports b e) hpend fun _ => rfl]
    exact Iff.rfl

/-- Settles O12: every refusal decodes to a violation that is reported, and the access needs no cycle. -/
theorem aRefusedAccessIsAViolation : Obligations.ARefusedAccessIsAViolation := by
  refine ⟨fun k subject region d now => ?_, ?_⟩
  · obtain ⟨flags, arg, hrec, hcode, hwr, hlanes, hrest, haddr, hindex, hhigh⟩ :=
      violationRecord_fields k subject region d now
    refine ⟨flags, arg, hrec, hcode.trans (by cases k <;> rfl), hwr, hlanes, hrest, haddr, fun i hi hlt => ?_, fun hr => ?_,
      hhigh⟩
    · rw [hindex, hi]
      exact Nat.mod_eq_of_lt hlt
    · rw [hindex, hr]
      rfl
  · intro s p d k subject region u rs ht h
    obtain ⟨w, hw, heq, hmarks⟩ := present_of_refuses ht h
    refine ⟨w, (exec_portAccessTake p d s).trans (by rw [hw]), heq, ?_, hmarks⟩
    have hacc : w.access p = (u.taking p d (.violation k region) (u.ports.get p).faultSignal).access p := by rw [heq]; rfl
    rw [portWaits, hacc, State.taking, State.access_setAccess]
    rfl

end Sys2Proof.Machine

/-! SUPPORT. The Mirror items that wait or are in flight lie in the control area (R110, R131): every operation marks the blocks
of installed places, the part's words and the words of the journals alone. -/
namespace Sys2Proof.Machine

/-! ### Items of the control area (R110, R131) -/

/-- Every dirty item and the item in flight lie in the control area. -/
def AreaLaw (s : State) : Prop :=
  (∀ i ∈ s.mirror.dirty, i.inArea) ∧ ∀ f, s.mirror.flight = some f → f.item.inArea

section AreaLaw
variable {s t : State}

theorem AreaLaw.of_mirror (h : AreaLaw s) (hm : t.mirror = s.mirror) : AreaLaw t := by
  rw [AreaLaw, hm]
  exact h

/-- R132: the mark of an item of the area. -/
theorem AreaLaw.mark (h : AreaLaw s) {i : MirrorItem} (hi : i.inArea) : AreaLaw (s.mark i) := by
  obtain ⟨hdirty, hflight⟩ := h
  have hinsert : ∀ j ∈ insertItem i s.mirror.dirty, j.inArea := fun j hj =>
    (mem_insertItem.1 hj).elim (fun e => e ▸ hi) (hdirty j)
  unfold AreaLaw State.mark Mirror.mark
  cases hf : s.mirror.flight with
  | none => exact ⟨hinsert, fun f h => nomatch h⟩
  | some f =>
    dsimp only
    split
    · exact ⟨hdirty, fun _ hg => by cases hg; exact hflight f hf⟩
    · exact ⟨hinsert, fun _ hg => by cases hg; exact hflight f hf⟩

theorem AreaLaw.markPart (h : AreaLaw s) (n : Nat) (hn : n ≤ 4 := by decide) : AreaLaw (s.mark (.part n)) := h.mark hn

theorem AreaLaw.raise (h : AreaLaw s) (p : Port) (c : Cause) : AreaLaw (s.raise p c) := h

theorem AreaLaw.modChannel (h : AreaLaw s) (n : Nat) (f : Channel → Channel) : AreaLaw (s.modChannel n f) := h

theorem AreaLaw.modGroup (h : AreaLaw s) (g : Nat) (f : Group → Group) : AreaLaw (s.modGroup g f) := h

theorem AreaLaw.setAccess (h : AreaLaw s) (p : Port) (a : AccessState) : AreaLaw (s.setAccess p a) := h

theorem AreaLaw.foldl {β : Type} {f : State → β → State} (h : AreaLaw s) (hf : ∀ v b, AreaLaw v → AreaLaw (f v b))
    (bs : List β) : AreaLaw (bs.foldl f s) :=
  List.foldlRecOn (motive := AreaLaw) bs f h fun v hv b _ => hf v b hv

/-- R140, R142: an offer marks slots and a head word. -/
theorem AreaLaw.offer (h : AreaLaw s) (p : Port) (r : Record) : AreaLaw (s.offer p r) := by
  have hmarks : ∀ i ∈ offerMarks p (s.journals.get p) ((s.journals.get p).offer r s.clock), i.inArea := by
    intro i hi
    unfold offerMarks at hi
    rcases List.mem_append.1 hi with hi | hi
    · obtain ⟨k, -, rfl⟩ := List.mem_map.1 hi
      trivial
    · split at hi
      · rw [List.mem_singleton.1 hi]
        trivial
      · cases hi
  exact List.foldlRecOn (motive := AreaLaw) _ State.mark h fun v hv i hi => hv.mark (hmarks i hi)

theorem AreaLaw.offerBoth (h : AreaLaw s) (r : Record) : AreaLaw (s.offerBoth r) := (h.offer .A r).offer .B r

theorem State.group?_lt_of_bind {α : Type} {g : Nat} {f : Group → Option α} {x : α} (h : (s.group? g).bind f = some x) :
    g < 24 := by
  obtain ⟨gr, hg, -⟩ := Option.bind_eq_some_iff.1 h
  exact State.group?_lt hg

/-! ### The exchange unit -/

theorem AreaLaw.publish (h : AreaLaw s) (n b : Nat) (q x : Word) : AreaLaw (publish n b q x s) := by
  unfold Machine.publish
  split
  · exact h
  · rename_i c hc
    have hmark := (h.modChannel n fun c => c.published b s.clock).mark (i := .chanBlock n) (State.channel?_lt hc)
    dsimp only
    split
    · exact (hmark.offer _ _).raise _ _
    · exact hmark

theorem AreaLaw.publishMembers (h : AreaLaw s) (g : Nat) : AreaLaw (publishMembers g s) := by
  refine h.foldl (fun v n hv => ?_) _
  unfold publishPending
  split
  · exact hv.publish _ _ _ _
  · exact hv

theorem AreaLaw.endGather (h : AreaLaw s) {g : Nat} (hg : g < 24) : AreaLaw (endGather g s) :=
  (h.modGroup g _).mark (i := .groupBlock g) hg

theorem AreaLaw.memberGained (h : AreaLaw s) (g : Nat) : AreaLaw (memberGained g s) := by
  have hstart : AreaLaw (startGather g s) := by
    unfold startGather
    split
    · rename_i gr hg
      split
      · exact (h.modGroup g _).mark (i := .groupBlock g) (State.group?_lt hg)
      · exact h
    · exact h
  unfold Machine.memberGained
  split
  · rename_i hmode
    unfold completeGather
    split
    · exact (hstart.publishMembers g).endGather (State.group?_lt_of_bind hmode)
    · exact hstart
  · exact h

theorem AreaLaw.endPass (h : AreaLaw s) {n : Nat} (hn : n < 24) :
    AreaLaw ((s.modChannel n fun c => { c with pass := none }).mark (.chanBlock n)) :=
  (h.modChannel n _).mark (i := .chanBlock n) hn

theorem AreaLaw.faultPass (h : AreaLaw s) {n : Nat} (hn : n < 24) (c : Channel) (p : FillPass) (e : Bool) (r : Record) :
    AreaLaw (faultPass n c p e r s) := by
  have hpass := ((h.endPass hn).offer c.desc.producer r).raise c.desc.producer .fillFault
  unfold Machine.faultPass
  dsimp only
  split
  · exact ((hpass.modChannel n _).offer _ _).mark (i := .chanBlock n) hn
  · exact hpass

theorem AreaLaw.closePass (h : AreaLaw s) (n : Nat) (seq : Word) : AreaLaw (closePass n seq s) := by
  unfold Machine.closePass
  split
  · exact h
  rename_i c hc
  have hn := State.channel?_lt hc
  split
  · exact h
  split
  swap
  · exact h
  split
  · exact h.faultPass hn c _ false _
  · split
    · exact (h.endPass hn).publish _ _ _ _
    · refine AreaLaw.memberGained (AreaLaw.modChannel ?_ n _) _
      unfold supersede
      split
      · exact (h.endPass hn).offer _ _
      · exact h.endPass hn

theorem AreaLaw.expirePass (h : AreaLaw s) (n : Nat) : AreaLaw (expirePass n s) := by
  unfold Machine.expirePass
  split
  · exact h
  rename_i c hc
  split
  · exact h
  · exact h.faultPass (State.channel?_lt hc) c _ true _

theorem AreaLaw.rearm (h : AreaLaw s) (x : Port) (v : Word) : AreaLaw (rearm x v s) := by
  refine h.foldl (fun w n hw => ?_) indices
  unfold rearmOne
  split
  · rename_i c hc
    split
    · exact (hw.modChannel n _).mark (i := .chanBlock n) (State.channel?_lt hc)
    · exact hw
  · exact hw

theorem AreaLaw.takeProducerWrite (h : AreaLaw s) (n off : Nat) : AreaLaw (takeProducerWrite n off s).1 := by
  have hopen : AreaLaw (openPass n s) := by
    unfold openPass
    split
    · rename_i c hc
      split
      · exact (h.modChannel n _).mark (i := .chanBlock n) (State.channel?_lt hc)
      · exact h
    · exact h
  unfold Machine.takeProducerWrite
  dsimp only
  split
  · exact hopen.modChannel n _
  · exact hopen

theorem AreaLaw.openPin (h : AreaLaw s) (g : Nat) : AreaLaw (openPin g s) := by
  unfold Machine.openPin
  split
  · rename_i gr hg
    split
    · refine AreaLaw.foldl ((h.modGroup g _).mark (i := .groupBlock g) (State.group?_lt hg)) (fun v m hv => ?_) _
      unfold pinMember
      split
      · rename_i c hc
        dsimp only
        split
        · exact hv.modChannel m _
        · exact (hv.modChannel m _).mark (i := .chanBlock m) (State.channel?_lt hc)
      · exact hv
    · exact h
  · exact h

theorem AreaLaw.takeConsumerRead (h : AreaLaw s) (n off : Nat) : AreaLaw (takeConsumerRead n off s).1 := by
  unfold Machine.takeConsumerRead
  split
  · exact h
  · dsimp only
    split
    · exact (h.openPin _).modGroup _ _
    · exact h.openPin _

theorem AreaLaw.dropPin (h : AreaLaw s) {g : Nat} (hg : g < 24) : AreaLaw (dropPin g s) := by
  refine AreaLaw.mark (AreaLaw.foldl (h.modGroup g _) (fun v m hv => ?_) (s.members g)) (i := .groupBlock g) hg
  unfold unpinMember
  split
  · rename_i c hc
    split
    · exact (hv.modChannel m _).mark (i := .chanBlock m) (State.channel?_lt hc)
    · exact hv
  · exact hv

theorem AreaLaw.closePin (h : AreaLaw s) (g : Nat) : AreaLaw (closePin g s) := by
  unfold Machine.closePin
  split
  · exact h
  · rename_i q hq
    have hdrop := h.dropPin (State.group?_lt_of_bind hq)
    dsimp only
    split
    · exact (hdrop.offer _ _).raise _ _
    · exact hdrop

theorem AreaLaw.releasePin (h : AreaLaw s) (g : Nat) (i : Bool) : AreaLaw (releasePin g i s) := by
  unfold Machine.releasePin
  split
  · exact h
  · rename_i q hq
    exact ((h.dropPin (State.group?_lt_of_bind hq)).offer _ _).raise _ _

theorem AreaLaw.taintPin (h : AreaLaw s) (g : Nat) : AreaLaw (taintPin g s) := by
  unfold Machine.taintPin
  split
  · exact h
  · rename_i q hq
    split
    · exact h
    · exact (h.modGroup g _).mark (i := .groupBlock g) (State.group?_lt_of_bind hq)

theorem AreaLaw.exchangeStep (h : AreaLaw s) (k : Taken) (e : Lanes) : AreaLaw (exchangeStep k e s) := by
  unfold Machine.exchangeStep exchangeCompletion
  split
  · split
    · split
      · split
        · exact h.closePass _ _
        · exact h
      · exact h
    · split
      · exact h
      · rename_i c _
        have htaint : AreaLaw (if (e != 0) = true then Machine.taintPin c.desc.group s else s) := by
          split
          · exact h.taintPin _
          · exact h
        dsimp only
        split
        · exact htaint.closePin _
        · exact htaint
  · exact h

/-! ### Takes -/

theorem AreaLaw.handToOwner (h : AreaLaw s) (x : Trigger) (v : Word) : AreaLaw (handToOwner x v s) := by
  cases x with
  | commit =>
    change AreaLaw (takeCommit v s)
    unfold takeCommit
    split
    · exact h
    · split
      · exact AreaLaw.markPart (h.of_mirror rfl) 1
      · exact AreaLaw.markPart (h.of_mirror rfl) 1
      · exact h
  | enable y => exact AreaLaw.mark (i := .report y) (h.of_mirror rfl) trivial
  | ack y => exact AreaLaw.mark (i := .report y) (h.of_mirror rfl) trivial
  | jread y =>
    refine AreaLaw.mark (i := .report y) ?_ trivial
    split
    · exact h.of_mirror rfl
    · exact h.raise _ _
  | rearm y => exact h.rearm y v

theorem AreaLaw.violate (h : AreaLaw s) (p : Port) (d : Drive) (k : ViolationKind) (n : Nat) (r : Option Nat) :
    AreaLaw (violate p d k n r s) := (h.offer _ _).raise _ _

theorem AreaLaw.take (h : AreaLaw s) (p : Port) (d : Drive) : AreaLaw (take p d s) := by
  have hact : ∀ o x, AreaLaw (actOnTake p d x o s) := by
    intro o x
    unfold actOnTake
    split
    · exact h.handToOwner _ _
    · exact h.violate _ _ _ _ _
    · exact h
  refine AreaLaw.setAccess ?_ p _
  unfold decodeAndAct
  split
  · exact hact _ _
  · unfold takeChannel
    split
    · exact h
    · split
      · split
        · exact h.takeProducerWrite _ _
        · exact h
      · split
        · exact h.violate _ _ _ _ _
        · exact h.takeConsumerRead _ _
  · exact hact _ _
  · exact h
  · exact h
  · exact h

/-! ### Completions and reports -/

theorem AreaLaw.noteReports (h : AreaLaw s) (b : State) : AreaLaw (noteReports b s) := by
  have hone : ∀ p v, AreaLaw v → AreaLaw (noteReport b p v) := by
    intro p v hv
    unfold noteReport
    split
    · exact hv
    · exact hv.mark (i := .report p) trivial
  exact hone .B _ (hone .A s h)

theorem AreaLaw.completionEffects (h : AreaLaw s) (k : Taken) (p : Port) (e : Lanes) : AreaLaw (completionEffects k p e s) := by
  refine AreaLaw.exchangeStep ?_ k e
  unfold reportParity
  split
  · split
    · exact (h.offer _ _).raise _ _
    · exact h
  · exact h

/-! ### The Loader and the Mirror -/

theorem AreaLaw.reportLoadEnd (h : AreaLaw s) (l : Load) (c : ResultCode) (d : Detail) : AreaLaw (reportLoadEnd l c d s) := by
  have hmarks := ((h.of_mirror (t := { s with lastResult := { gen := l.gen, code := c, detail := d } }) rfl).markPart
    2).markPart 3
  exact ((hmarks.offerBoth _).raise .A .commit).raise .B .commit

theorem AreaLaw.continueLoader (h : AreaLaw s) : AreaLaw (continueLoader s) := by
  rw [continueLoader_eq]
  exact AreaLaw.markPart (h.of_mirror rfl) 1

/-- R132, R144: an item that lands is dirty again only where it was in flight. -/
theorem AreaLaw.mirrorCycleDone (h : AreaLaw s) : AreaLaw (mirrorCycleDone s) := by
  unfold Machine.mirrorCycleDone
  split
  · rename_i f hf
    split
    · exact h
    · have hland : AreaLaw { s with mirror := landFlight f s.mirror } := by
        refine ⟨fun i hi => ?_, fun g hg => nomatch hg⟩
        change i ∈ (if f.changed = true then insertItem f.item s.mirror.dirty else s.mirror.dirty) at hi
        split at hi
        · exact (mem_insertItem.1 hi).elim (fun e => e ▸ h.2 f hf) (h.1 i)
        · exact h.1 i hi
      unfold itemCompleted
      split
      · exact AreaLaw.mark (i := .head _) (hland.of_mirror rfl) trivial
      · exact hland.of_mirror rfl
      · exact hland.of_mirror rfl
      · exact hland
  · exact h

/-! ### The part's own events -/

theorem AreaLaw.ownEvent (h : AreaLaw s) {e : Instr} (he : e ∈ dueEvents s) (hi : e ≠ .install) : AreaLaw (ownEvent e s) := by
  rcases mem_dueEvents.1 he with ⟨rfl, -⟩ | ⟨n, rfl, -⟩ | ⟨n, rfl, -⟩ | ⟨g, rfl, -⟩ | ⟨g, rfl, hd⟩ | ⟨g, rfl, hd⟩
  · exact absurd rfl hi
  · exact h.expirePass n
  · change AreaLaw (becomeStale n s)
    unfold becomeStale
    split
    · exact h
    · rename_i c hc
      exact ((h.modChannel n _).mark (i := .chanBlock n) (State.channel?_lt hc)).offer _ _
  · exact h.releasePin g false
  · change AreaLaw (partialPublication g s)
    unfold partialPublication
    split
    · exact h
    · exact ((h.publishMembers g).offer _ _).endGather (gatherDue_lt hd)
  · exact ((h.publishMembers g).modGroup g _).mark (i := .groupBlock g) (frameDue_lt hd)

/-! ### The install (R123 to R129) -/

theorem AreaLaw.endOldSet (h : AreaLaw s) (l : Load) : AreaLaw (endOldSet l s) := by
  refine AreaLaw.foldl (AreaLaw.foldl h (fun v n hv => ?_) indices) (fun v g hv => ?_) indices
  · unfold endChannel
    split
    · exact hv
    · split
      · exact hv
      · dsimp only
        split <;> split
        · exact (hv.offer _ _).offer _ _
        · exact hv.offer _ _
        · exact hv.offer _ _
        · exact hv
  · unfold endGroup
    split
    · exact hv
    · split
      · exact hv
      · refine AreaLaw.foldl (hv.releasePin g true) (fun w m hw => ?_) _
        unfold dropMemberPending
        split
        · exact hw
        · split
          · split
            · exact (hw.modChannel m _).offer _ _
            · exact hw
          · exact hw

/-- R124 to R128: the block of a place that is installed, or that ends. -/
theorem AreaLaw.settleBlock (h : AreaLaw s) {i : MirrorItem} (ended installed : Bool) (hi : installed = true → i.inArea) :
    AreaLaw (s.settleBlock i ended installed) := by
  have hunmark : AreaLaw { s with mirror := s.mirror.unmark i } := by
    refine ⟨fun j hj => h.1 j (List.mem_of_mem_filter hj), fun f hf => ?_⟩
    obtain ⟨g, hg, rfl⟩ := Option.map_eq_some_iff.1 hf
    have hg' := h.2 g hg
    split
    · exact hg'
    · exact hg'
  have hended : AreaLaw (if ended then { s with mirror := s.mirror.unmark i } else s) := by
    split
    · exact hunmark
    · exact h
  unfold State.settleBlock
  dsimp only
  split
  · rename_i hin
    exact hended.mark (hi hin)
  · exact hended

theorem AreaLaw.installed (h : AreaLaw s) (l : Load) : AreaLaw (installed l s) := by
  have hset : AreaLaw (takeNewSet l s (Machine.endOldSet l s)) := (h.endOldSet l).of_mirror rfl
  have hchans := hset.foldl (f := settleChanBlock l s) (fun v n hv => by
    rw [settleChanBlock_eq]
    refine hv.settleBlock _ _ fun hsome => ?_
    obtain ⟨c, hc⟩ := Option.isSome_iff_exists.1 hsome
    exact State.channel?_lt hc) indices
  have hgroups := hchans.foldl (f := settleGroupBlock l s) (fun v g hv => by
    rw [settleGroupBlock_eq]
    refine hv.settleBlock _ _ fun hsome => ?_
    obtain ⟨gr, hg⟩ := Option.isSome_iff_exists.1 hsome
    exact State.group?_lt hg) indices
  have hresumed := hgroups.foldl (f := offerResumed l s) (fun v n hv => by
    unfold offerResumed
    split
    · split
      · exact hv.offerBoth _
      · exact hv
    · exact hv) indices
  exact ((hresumed.reportLoadEnd l .ok Detail.nothing).markPart 4).continueLoader

/-! ### The grant (R132, R133) -/

/-- R132, R133: the item that an Engine grant serves has a cycle left, and was in flight or dirty. -/
theorem servedFlight_eq_some {f : Flight} (h : servedFlight s = some f) :
    f.granted < f.item.cycles ∧ (s.mirror.flight = some f ∨ f.item ∈ s.mirror.dirty) := by
  have hnew : (chosenItem s).map (newFlight s) = some f →
      f.granted < f.item.cycles ∧ (s.mirror.flight = some f ∨ f.item ∈ s.mirror.dirty) := by
    intro hf
    obtain ⟨i, hi, rfl⟩ := Option.map_eq_some_iff.1 hf
    have hmem : i ∈ allowedItems s := List.mem_of_mem_filter (pickFrom_mem hi)
    exact ⟨by cases i <;> exact Nat.succ_pos _, .inr (List.mem_of_mem_filter hmem)⟩
  unfold servedFlight at h
  split at h
  · rename_i g hg
    split at h
    · rename_i hlt
      cases h
      exact ⟨hlt, .inl hg⟩
    · exact hnew h
  · exact hnew h

theorem AreaLaw.served (h : AreaLaw s) {f : Flight} (hf : servedFlight s = some f) : f.item.inArea :=
  (servedFlight_eq_some hf).2.elim (h.2 f) (h.1 _)

theorem AreaLaw.grant (h : AreaLaw s) : AreaLaw (grant s) := by
  have hadvance : ∀ (m : Mirror) i, (m.advance i).dirty = m.dirty := by
    intro m i
    cases i <;> rfl
  have hgranted : ∀ f, servedFlight s = some f → AreaLaw { s with mirror := mirrorGranted s f } := by
    intro f hf
    have harea := h.served hf
    refine ⟨fun i hi => h.1 i ?_, fun g hg => by cases hg; exact harea⟩
    have hdirty : (mirrorGranted s f).dirty = (if f.granted = 0 then startItem s f.item s.mirror else s.mirror).dirty := by
      unfold mirrorGranted
      dsimp only
      split <;> simp [hadvance]
    rw [hdirty] at hi
    split at hi
    · exact List.mem_of_mem_filter hi
    · exact hi
  suffices AreaLaw { s with mirror := onGrant s s.mirror (mirrorAfter s) } from this.of_mirror rfl
  unfold onGrant
  split
  · unfold mirrorAfter
    split
    · exact h
    · split
      · rename_i f hf
        unfold engineFlight at hf
        split at hf
        · cases hf
        · exact hgranted f hf
      · exact h
  · exact h

end AreaLaw
end Sys2Proof.Machine

/-! SUPPORT. The physical addresses that the part drives (R73, R76, R83, R86): what an installed set, a load and an access in
flight bring, compared with the fitted size. -/
namespace Sys2Proof.Machine

/-! ### The fitted size (R85) -/

theorem le_fittedWords (m : BitVec 2) : 0x8000 ≤ fittedWords m := by
  unfold fittedWords
  omega

theorem ctl_toNat_le (n : Nat) : (ctl n).toNat ≤ n := by
  rw [ctl, BitVec.toNat_ofNat]
  exact Nat.mod_le _ _

/-- An address of the control area is fitted. -/
theorem ctl_lt_fittedWords {n : Nat} (h : n < 0x1000) (m : BitVec 2) : (ctl n).toNat < fittedWords m := by
  have := ctl_toNat_le n
  have := le_fittedWords m
  omega

/-! ### Items and reads of the part (R110, R114, R131) -/

/-- R110: every word of an item of the control area lies in it. -/
theorem MirrorItem.word_lt {i : MirrorItem} (hi : i.inArea) {k : Nat} (hk : k < i.cycles) :
    i.base + i.wordIndex k < 0x1000 := by
  have hindex : i.wordIndex k ≤ k := by
    unfold MirrorItem.wordIndex
    split <;> omega
  cases i with
  | part n =>
    have hn : n ≤ 4 := hi
    simp only [MirrorItem.cycles, MirrorItem.base] at hk ⊢
    omega
  | report p => cases p <;> simp only [MirrorItem.cycles, MirrorItem.base] at hk ⊢ <;> omega
  | head p => cases p <;> simp only [MirrorItem.cycles, MirrorItem.base] at hk ⊢ <;> omega
  | slot p j =>
    have := j.isLt
    cases p <;> simp only [MirrorItem.cycles, MirrorItem.base] at hk ⊢ <;> omega
  | chanBlock n =>
    have hn : n < 24 := hi
    simp only [MirrorItem.cycles, MirrorItem.base] at hk ⊢
    omega
  | groupBlock n =>
    have hn : n < 24 := hi
    simp only [MirrorItem.cycles, MirrorItem.base] at hk ⊢
    omega

theorem tableAddr_lt {k : Nat} (h : k < tableReads) : tableAddr k < 0x1000 := by
  unfold tableAddr
  unfold tableReads at h
  split
  · omega
  · split
    · omega
    · split <;> omega

/-- R114, R115: every read of a load is a read of the control area. -/
theorem Load.nextRead_lt {l : Load} (h : ∀ n ∈ l.cands, n < 24) {a : PhysAddr} (ha : l.nextRead = some a) (m : BitVec 2) :
    a.toNat < fittedWords m := by
  unfold Load.nextRead at ha
  split at ha
  · rename_i hk
    cases ha
    exact ctl_lt_fittedWords (tableAddr_lt hk) m
  · split at ha
    · rename_i n hn
      have := h n (List.mem_of_getElem? hn)
      cases ha
      refine ctl_lt_fittedWords ?_ m
      split <;> omega
    · cases ha

/-! ### Validation (R118, R120) -/

theorem ends_of_spanFails {fitted : Nat} {barred : List Span} {x : Span} (h : spanFails fitted barred x = none) :
    x.base + x.len ≤ fitted := by
  unfold spanFails at h
  split at h
  · cases h
  · omega

theorem ends_of_buffersFail {fitted : Nat} {spans : List Span} : ∀ {barred : List Span},
    buffersFail fitted barred spans = none → ∀ x ∈ spans, x.base + x.len ≤ fitted := by
  induction spans with
  | nil => intro _ _ x hx; cases hx
  | cons y ys ih =>
    intro barred h x hx
    unfold buffersFail at h
    split at h
    · cases h
    · rename_i hy
      rcases List.mem_cons.1 hx with rfl | hx
      · exact ends_of_spanFails hy
      · exact ih h x hx

/-- R120: in a table set that passes validation every region's window and every buffer ends at the fitted size or below. -/
theorem Load.spans_of_validate {l : Load} {fitted : Nat} (h : l.validate fitted = none) :
    (∀ i ∈ l.regions, (l.region i).pbase.toNat + (l.region i).len.toNat ≤ fitted) ∧
      ∀ n ∈ l.chans, (l.chan n).depth ≤ 4 ∧ ∀ k, k < (l.chan n).depth → ((l.chan n).base k).toNat + (l.chan n).len ≤ fitted := by
  simp only [Load.validate, Option.orElse_eq_none, firstFailing_eq_none] at h
  obtain ⟨-, -, hchan, -, -, -, -, -, hphysical⟩ := h
  unfold Load.physicalFails at hphysical
  split at hphysical
  · cases hphysical
  · rename_i hregions
    refine ⟨fun i hi => ?_, fun n hn => ⟨?_, fun k hk => ?_⟩⟩
    · exact ends_of_spanFails (List.findSome?_eq_none_iff.1 hregions _ (List.mem_map_of_mem hi))
    · have hdepth := hchan n hn
      simp only [chanFails, Bool.or_eq_false_iff, Bool.not_eq_false', Bool.or_eq_true, beq_iff_eq] at hdepth
      omega
    · exact ends_of_buffersFail hphysical _
        (List.mem_flatMap.2 ⟨n, hn, List.mem_map_of_mem (List.mem_range.2 hk)⟩)

/-! ### What is fitted -/

/-- R86: the physical address of a decode result, if it has one, is fitted. -/
def Decoded.Fits (fitted : Nat) (o : Decoded) : Prop := ∀ x, o.phys? = some x → x.toNat < fitted

/-- The access of a port, while it is in flight, is fitted. -/
def AccessState.Fits (fitted : Nat) (a : AccessState) : Prop := ∀ t, a = .taken t ∨ a = .inCycle t → t.outcome.Fits fitted

/-- A drain will install a table set that has passed validation, and the resume candidates of a load are places. -/
def LoaderState.Fits (fitted : Nat) (l : LoaderState) : Prop :=
  (∀ d, l = .draining d → d.validate fitted = none) ∧ ∀ r, l = .reading r → ∀ n ∈ r.cands, n < 24

/-- The depth is a depth, and every buffer ends at the fitted size or below. -/
def ChanDesc.Fits (fitted : Nat) (d : ChanDesc) : Prop :=
  d.depth ≤ 4 ∧ ∀ k, k < d.depth → (d.base k).toNat + d.len ≤ fitted

/-- What is installed is fitted, and the role of every buffer is the role of a buffer that there is (R4). -/
structure SetFits (s : State) : Prop where
  roles : RoleLaw s
  buffers : ∀ n d, s.descOf n = some d → d.Fits (fittedWords s.msz)
  regions : ∀ r g, s.region? r = some g → g.pbase.toNat + g.len.toNat ≤ fittedWords s.msz

theorem LoaderState.fits_idle (fitted : Nat) : LoaderState.idle.Fits fitted :=
  ⟨fun _ h => (nomatch h), fun _ h => nomatch h⟩

theorem LoaderState.fits_newLoad (fitted : Nat) (gen : BitVec 16) (now : Word) :
    (LoaderState.reading (newLoad gen now)).Fits fitted :=
  ⟨fun _ h => (nomatch h), fun r h n hn => by cases h; cases hn⟩

/-- R113: what the Loader does next is to read no resume candidate. -/
theorem fits_nextLoader (s : State) (fitted : Nat) : s.nextLoader.Fits fitted := by
  unfold State.nextLoader
  split
  · exact LoaderState.fits_newLoad _ _ _
  · exact LoaderState.fits_idle _

theorem AccessState.fits_taken {fitted : Nat} {t : Taken} : (AccessState.taken t).Fits fitted ↔ t.outcome.Fits fitted := by
  simp [AccessState.Fits]

theorem AccessState.fits_inCycle {fitted : Nat} {t : Taken} : (AccessState.inCycle t).Fits fitted ↔ t.outcome.Fits fitted := by
  simp [AccessState.Fits]

theorem AccessState.fits_idle (fitted : Nat) : AccessState.idle.Fits fitted := fun _ h => by rcases h with h | h <;> cases h

theorem AccessState.fits_deferred (fitted : Nat) (d : Drive) : (AccessState.deferred d).Fits fitted :=
  fun _ h => by rcases h with h | h <;> cases h

theorem AccessState.fits_done (fitted : Nat) (t : Taken) (w : Word) (e : Bool) : (AccessState.done t w e).Fits fitted :=
  fun _ h => by rcases h with h | h <;> cases h

theorem AccessState.Fits.afterReqFall {fitted : Nat} {a : AccessState} (h : a.Fits fitted) : a.afterReqFall.Fits fitted := by
  cases a with
  | idle => exact fits_idle _
  | deferred d => exact fits_idle _
  | taken t =>
    have ho : t.outcome.Fits fitted := fits_taken.1 h
    exact fits_taken.2 ho
  | inCycle t =>
    have ho : t.outcome.Fits fitted := fits_inCycle.1 h
    exact fits_inCycle.2 ho
  | done t w e => exact fits_idle _

theorem SetFits.congr {s t : State} (h : SetFits s) (hm : t.msz = s.msz) (hg : t.regions = s.regions)
    (hd : t.descOf = s.descOf) (hr : RoleLaw t) : SetFits t where
  roles := hr
  buffers := by
    rw [hd, hm]
    exact h.buffers
  regions r := by
    have hregion : t.region? r = s.region? r := by rw [State.region?, State.region?, hg]
    rw [hregion, hm]
    exact h.regions r

theorem SetFits.exchange {s t : State} (h : SetFits s) (ho : OnlyExchange s t) (hr : RoleLaw t) (hd : t.descOf = s.descOf) :
    SetFits t := h.congr ho.msz ho.regions hd hr

end Sys2Proof.Machine

/-! SUPPORT. Every physical address that a decode gives is fitted (R73, R82, R83, R86). -/
namespace Sys2Proof.Machine

section Decode
variable {s : State}

/-! ### The words of a buffer (R1, R4) -/

theorem ChanDesc.Fits.bufferWord_lt {d : ChanDesc} {m : BitVec 2} (h : d.Fits (fittedWords m)) {b off : Nat}
    (hb : b < d.depth) (hoff : off < d.len) : (d.bufferWord b off).toNat < fittedWords m := by
  have hend := h.2 b hb
  have hle : (d.bufferWord b off).toNat ≤ (d.base b).toNat + off := by
    rw [ChanDesc.bufferWord, BitVec.toNat_add, BitVec.toNat_ofNat]
    exact (Nat.mod_le _ _).trans (Nat.add_le_add_left (Nat.mod_le _ _) _)
  omega

/-- The buffer that an access to a channel window is steered to, if any, holds its word below the fitted size. -/
def ChannelAccess.Fits (fitted : Nat) (a : ChannelAccess) : Prop := ∀ b x, a.steer = .buffer b x → x.toNat < fitted

theorem ChannelAccess.Fits.decoded {fitted : Nat} {a : ChannelAccess} (h : a.Fits fitted) :
    (Decoded.channel a).Fits fitted := by
  intro x hx
  simp only [Decoded.phys?] at hx
  split at hx
  · rename_i b y hsteer
    cases hx
    exact h b _ hsteer
  · cases hx

theorem SetFits.bufferWord_lt (h : SetFits s) {n b off : Nat} {c : Channel} (hc : s.channel? n = some c)
    (hb : b < c.desc.depth) (hoff : off < c.desc.len) : (c.desc.bufferWord b off).toNat < fittedWords s.msz :=
  (h.buffers n c.desc (by rw [State.descOf, hc]; rfl)).bufferWord_lt hb hoff

/-- R8: a producer write goes to the target of its pass. -/
theorem SetFits.steerWrite (h : SetFits s) {n off : Nat} (hoff : ∀ c, s.channel? n = some c → off < c.desc.len) :
    (steerWrite s n off).Fits (fittedWords s.msz) := by
  intro b x hx
  unfold Machine.steerWrite at hx
  split at hx
  · cases hx
  · rename_i c hc
    dsimp only at hx
    split at hx
    · cases hx
    · split at hx
      · cases hx
      · rename_i q hq
        dsimp only at hx
        split at hx
        · rename_i b' htarget
          cases hx
          have hfilling : c.filling = some b := by
            rw [Channel.filling, hq]
            simp [htarget, Target.buffer?]
          exact h.bufferWord_lt hc ((h.roles n c hc).1 b hfilling).1 (hoff c hc)
        · cases hx

/-- R17: a producer read is served from the target of the pass or from the live buffer. -/
theorem SetFits.steerProducerRead (h : SetFits s) {n off : Nat} {c : Channel} (hc : s.channel? n = some c)
    (hoff : off < c.desc.len) : (steerProducerRead s n off).Fits (fittedWords s.msz) := by
  obtain ⟨hfilling, -, hlive, -⟩ := h.roles n c hc
  have hbuffer : ∀ b, producerReadBuffer s c = some b → b < c.desc.depth := by
    intro b hb
    rw [producerReadBuffer_eq] at hb
    split at hb
    · exact hlive b hb
    · split at hb
      · rename_i b' hb'
        cases hb
        exact (hfilling b hb').1
      · exact hlive b hb
  intro b x hx
  simp only [Machine.steerProducerRead, hc] at hx
  split at hx
  · rename_i b' hb'
    cases hx
    exact h.bufferWord_lt hc (hbuffer b hb') hoff
  · cases hx

/-- R46: a consumer read is served from the held buffer. -/
theorem SetFits.steerConsumerRead (h : SetFits s) {n off : Nat} (hoff : ∀ c, s.channel? n = some c → off < c.desc.len) :
    (steerConsumerRead s n off).Fits (fittedWords s.msz) := by
  intro b x hx
  unfold Machine.steerConsumerRead at hx
  split at hx
  · cases hx
  · rename_i c hc
    dsimp only at hx
    split at hx
    · cases hx
    · split at hx
      · rename_i b' hb'
        cases hx
        exact h.bufferWord_lt hc ((h.roles n c hc).2.2.2 b hb') (hoff c hc)
      · cases hx

/-! ### The exchange unit's part of a take -/

theorem descOf_eq_some {n : Nat} {c : Channel} (hc : s.channel? n = some c) : s.descOf n = some c.desc := by
  rw [State.descOf, hc]
  rfl

theorem len_of_descOf {t : State} (hd : t.descOf = s.descOf) {n off : Nat} {c : Channel} (hc : s.channel? n = some c)
    (hoff : off < c.desc.len) : ∀ c', t.channel? n = some c' → off < c'.desc.len := by
  intro c' hc'
  have hdesc : some c'.desc = some c.desc := by rw [← descOf_eq_some hc', hd, descOf_eq_some hc]
  rw [Option.some.inj hdesc]
  exact hoff

theorem SetFits.openPass (h : SetFits s) (n : Nat) : SetFits (openPass n s) ∧ (openPass n s).descOf = s.descOf := by
  have hkeep : RoleLaw (Machine.openPass n s) ∧ (Machine.openPass n s).descOf = s.descOf := by
    unfold Machine.openPass
    split
    · split
      · exact ⟨(h.roles.modChannel n _ fun _ _ hc => hc.opened s.clock).mark _, State.descOf_modChannel s n _ fun _ => rfl⟩
      · exact ⟨h.roles, rfl⟩
    · exact ⟨h.roles, rfl⟩
  exact ⟨h.exchange (openPass_only n s) hkeep.1 hkeep.2, hkeep.2⟩

theorem SetFits.openPin (h : SetFits s) (g : Nat) : SetFits (openPin g s) ∧ (openPin g s).descOf = s.descOf :=
  have hd := ((SameSet.refl s).openPin g).channels
  ⟨h.exchange (openPin_only g s) (h.roles.openPin g) hd, hd⟩

theorem SetFits.takeProducerWrite (h : SetFits s) {n off : Nat} {c : Channel} (hc : s.channel? n = some c)
    (hoff : off < c.desc.len) : (takeProducerWrite n off s).2.Fits (fittedWords s.msz) := by
  obtain ⟨hopen, hdesc⟩ := h.openPass n
  have hsteer := hopen.steerWrite (len_of_descOf hdesc hc hoff)
  rwa [(openPass_only n s).msz] at hsteer

theorem SetFits.takeConsumerRead (h : SetFits s) {n off : Nat} {c : Channel} (hc : s.channel? n = some c)
    (hoff : off < c.desc.len) : (takeConsumerRead n off s).2.Fits (fittedWords s.msz) := by
  obtain ⟨hopen, hdesc⟩ := h.openPin c.desc.group
  have hsteer := hopen.steerConsumerRead (len_of_descOf hdesc hc hoff)
  rw [(openPin_only c.desc.group s).msz] at hsteer
  simpa only [Machine.takeConsumerRead, hc] using hsteer

/-! ### The decode -/

theorem Decoded.fits_of_none {fitted : Nat} {o : Decoded} (h : o.phys? = none) : o.Fits fitted := fun x hx => by
  rw [h] at hx
  cases hx

/-- R77 to R81: an access to a control word that needs memory reaches that word. -/
theorem decodeControl_fits (p : Port) (d : Drive) {n : Nat} (hn : n ≤ 0xFFF) :
    (decodeControl s p d n).Fits (fittedWords s.msz) := by
  have hword : ∀ k b, (Decoded.control k b (ctl n)).Fits (fittedWords s.msz) := fun _ _ x hx => by
    cases hx
    exact ctl_lt_fittedWords (by omega) _
  unfold decodeControl
  split
  · exact hword _ _
  · split
    · exact Decoded.fits_of_none rfl
    · split
      · exact hword _ _
      · exact Decoded.fits_of_none rfl
    · split
      · exact hword _ _
      · exact Decoded.fits_of_none rfl
    · exact hword _ _

theorem SetFits.takeChannel (h : SetFits s) (p : Port) (d : Drive) {n off : Nat} {c : Channel} (hc : s.channel? n = some c)
    (hoff : off < c.desc.len) : (takeChannel p d n off s).2.Fits (fittedWords s.msz) := by
  simp only [Machine.takeChannel, hc]
  split
  · split
    · exact (h.takeProducerWrite hc hoff).decoded
    · exact (h.steerProducerRead hc hoff).decoded
  · split
    · exact Decoded.fits_of_none rfl
    · exact (h.takeConsumerRead hc hoff).decoded

/-- R83: the physical address of a word in a PLAIN window. -/
theorem SetFits.relocate_lt (h : SetFits s) {r : Nat} {g : Region} (hg : s.region? r = some g) {a : LogAddr}
    (hlow : g.lbase.toNat ≤ a.toNat) (hhigh : a.toNat < g.lbase.toNat + g.len.toNat) :
    (g.pbase + (a - g.lbase).setWidth 17).toNat < fittedWords s.msz := by
  have hend := h.regions r g hg
  have hle : (g.pbase + (a - g.lbase).setWidth 17).toNat ≤ g.pbase.toNat + (a.toNat - g.lbase.toNat) := by
    rw [BitVec.toNat_add, BitVec.toNat_setWidth, BitVec.toNat_sub_of_le (by rwa [BitVec.le_def])]
    exact (Nat.mod_le _ _).trans (Nat.add_le_add_left (Nat.mod_le _ _) _)
  omega

/-- R73: "physical address: for an allowed access that needs memory: the word it reaches". -/
theorem SetFits.decode (h : SetFits s) (p : Port) (d : Drive) : (decodeAndAct p d s).2.Fits (fittedWords s.msz) := by
  unfold decodeAndAct
  rcases landing_cases s d.addr with ⟨ha, hl⟩ | ⟨-, -, hl⟩ | ⟨-, -, ⟨n, c, hn, hc, hl⟩ | ⟨-, r, g, hr, hg, hl⟩ | ⟨-, -, hl⟩⟩
  · rw [hl]
    exact decodeControl_fits p d ha
  · by_cases hlt : d.addr.toNat < fittedWords s.msz
    · rw [hl, if_pos hlt]
      intro x hx
      cases hx
      rw [BitVec.toNat_setWidth]
      exact (Nat.mod_le _ _).trans_lt hlt
    · rw [hl, if_neg hlt]
      exact Decoded.fits_of_none rfl
  · obtain ⟨c', hc', hlow, hhigh⟩ := channelAt_eq_some hn
    cases hc.symm.trans hc'
    rw [hl]
    exact h.takeChannel p d hc (by omega)
  · obtain ⟨g', hg', hlow, hhigh⟩ := regionAt_eq_some hr
    cases hg.symm.trans hg'
    rw [hl]
    dsimp only [decodePlain]
    split
    · intro x hx
      cases hx
      exact h.relocate_lt hg hlow hhigh
    · exact Decoded.fits_of_none rfl
  · rw [hl]
    exact Decoded.fits_of_none rfl

end Decode
end Sys2Proof.Machine

/-! SUPPORT. What the M port's bound rests on (R76, R86), through every effect: what is installed, what a drain will install,
what is in flight at the ports, and the part's own items. -/
namespace Sys2Proof.Machine

/-! ### The law -/

/-- All that the M port can be made to drive is fitted. -/
structure Grounded (s : State) : Prop extends SetFits s where
  area : AreaLaw s
  loader : s.loader.Fits (fittedWords s.msz)
  ports : ∀ p, (s.access p).Fits (fittedWords s.msz)

section Grounded
variable {s t : State}

theorem Grounded.access (h : Grounded s) (ho : OnlyAccess s t) (hs : SameSet s t) (hr : RoleLaw t) (ha : AreaLaw t)
    (hl : t.loader.Fits (fittedWords s.msz)) (hp : ∀ p, (t.access p).Fits (fittedWords s.msz)) : Grounded t where
  toSetFits := h.toSetFits.congr ho.msz ho.regions hs.channels hr
  area := ha
  loader := by rwa [ho.msz]
  ports := by rwa [ho.msz]

theorem Grounded.exchange (h : Grounded s) (ho : OnlyExchange s t) (hs : SameSet s t) (hr : RoleLaw t) (ha : AreaLaw t) :
    Grounded t := by
  refine h.access ho.toAccess hs hr ha ?_ fun p => ?_
  · rw [ho.loader]
    exact h.loader
  · rw [State.access, ho.ports]
    exact h.ports p

theorem Grounded.setAccess (h : Grounded s) (p : Port) {a : AccessState} (ha : a.Fits (fittedWords s.msz)) :
    Grounded (s.setAccess p a) := by
  refine h.access ((OnlyAccess.refl s).setAccess p a) ((SameSet.refl s).setAccess p a) (h.roles.setAccess p a)
    (h.area.setAccess p a) h.loader fun q => ?_
  by_cases hq : q = p
  · rw [hq, State.access_setAccess]
    exact ha
  · rw [State.access_setAccess_other s hq]
    exact h.ports q

/-! ### Takes and arrivals -/

theorem fits_takeCommit {fitted : Nat} (h : s.loader.Fits fitted) (v : Word) : (takeCommit v s).loader.Fits fitted := by
  unfold takeCommit
  split
  · exact h
  · split
    · exact LoaderState.fits_newLoad _ _ _
    · exact h
    · exact h

theorem fits_handToOwner {fitted : Nat} (h : s.loader.Fits fitted) (x : Trigger) (v : Word) :
    (handToOwner x v s).loader.Fits fitted := by
  cases x with
  | commit => exact fits_takeCommit h v
  | enable y => exact h
  | ack y => exact h
  | jread y =>
    change (takeJread y v s).loader.Fits fitted
    unfold takeJread
    split
    · exact h
    · exact h
  | rearm y =>
    change (rearm y v s).loader.Fits fitted
    rwa [(rearm_only y v s).loader]

theorem ports_handToOwner (x : Trigger) (v : Word) (s : State) : (handToOwner x v s).ports = s.ports := by
  cases x with
  | commit =>
    change (takeCommit v s).ports = s.ports
    unfold takeCommit
    split
    · rfl
    · split <;> rfl
  | enable y => rfl
  | ack y => rfl
  | jread y =>
    change (takeJread y v s).ports = s.ports
    unfold takeJread
    split <;> rfl
  | rearm y => exact (rearm_only y v s).ports

/-- R73: what is tied to a take is an effect of the exchange unit or of the journals, or what the owner of a trigger does. -/
theorem decodeAndAct_cases (p : Port) (d : Drive) (s : State) : OnlyExchange s (decodeAndAct p d s).1 ∨
    ∃ x, (decodeAndAct p d s).1 = handToOwner x d.data s := by
  have hact : ∀ n o, OnlyExchange s (actOnTake p d n o s) ∨ ∃ x, actOnTake p d n o s = handToOwner x d.data s := by
    intro n o
    unfold actOnTake
    split
    · exact .inr ⟨_, rfl⟩
    · exact .inl (violate_only _ _ _ _ _ s)
    · exact .inl (.refl s)
  unfold decodeAndAct
  split
  · exact hact _ _
  · exact .inl (takeChannel_only _ _ _ _ s)
  · exact hact _ _
  · exact .inl (.refl s)
  · exact .inl (.refl s)
  · exact .inl (.refl s)

theorem ports_decodeAndAct (p : Port) (d : Drive) (s : State) : (decodeAndAct p d s).1.ports = s.ports := by
  rcases decodeAndAct_cases p d s with h | ⟨x, h⟩
  · exact h.ports
  · rw [h, ports_handToOwner]

theorem Grounded.take (h : Grounded s) (p : Port) (d : Drive) : Grounded (take p d s) := by
  refine h.access (take_only p d s) ((SameSet.refl s).take p d) (h.roles.take p d) (h.area.take p d) ?_ fun q => ?_
  · change (decodeAndAct p d s).1.loader.Fits _
    rcases decodeAndAct_cases p d s with ho | ⟨x, hx⟩
    · rw [ho.loader]
      exact h.loader
    · rw [hx]
      exact fits_handToOwner h.loader x d.data
  · unfold Machine.take
    by_cases hq : q = p
    · rw [hq, State.access_setAccess]
      exact AccessState.fits_taken.2 (h.decode p d)
    · rw [State.access_setAccess_other _ hq, State.access, ports_decodeAndAct]
      exact h.ports q

theorem Grounded.arriveIfRequested (h : Grounded s) (p : Port) : Grounded (arriveIfRequested p s) := by
  unfold Machine.arriveIfRequested arrive
  split
  · split
    · exact h.setAccess p (AccessState.fits_deferred _ _)
    · exact h.take p _
  · exact h

theorem Grounded.present (h : Grounded s) (p : Port) (d : Drive) : Grounded (present p d s) := by
  have hdrive : Grounded (drivePort p d s) := by
    refine ⟨⟨h.roles, h.buffers, h.regions⟩, h.area, h.loader, fun q => ?_⟩
    have hq : (drivePort p d s).access q = s.access q := by cases p <;> cases q <;> rfl
    rw [hq]
    exact h.ports q
  unfold Machine.present
  split
  · exact hdrive.arriveIfRequested p
  · exact hdrive

theorem Grounded.takeHeld (h : Grounded s) : Grounded (takeHeld s) := by
  have hone : ∀ p v, Grounded v → Grounded (takeHeldOf p v) := fun p v hv => by
    unfold takeHeldOf
    split
    · exact hv.take p _
    · exact hv
  exact hone .B _ (hone .A s h)

theorem Grounded.dropReq (h : Grounded s) (p : Port) : Grounded (dropReq p s) := by
  unfold Machine.dropReq
  split
  · refine ⟨⟨h.roles, h.buffers, h.regions⟩, h.area, h.loader, fun q => ?_⟩
    have hp := (h.ports p).afterReqFall
    have hq := h.ports q
    cases p <;> cases q
    · exact hp
    · exact hq
    · exact hq
    · exact hp
  · exact h

/-! ### Completions -/

theorem Grounded.noteReports (h : Grounded s) (b : State) : Grounded (noteReports b s) :=
  h.exchange (noteReports_only b s) ((SameSet.refl s).noteReports b) (h.roles.congr (channels_noteReports b s))
    (h.area.noteReports b)

theorem Grounded.complete (h : Grounded s) (p : Port) {k : Taken} (w : Word) (e : Lanes) :
    Grounded (complete p k w e s) := by
  have hparity : SameSet s (reportParity p k e s) :=
    .of_fields (channels_reportParity p k e s) (groups_reportParity p k e s) (reportParity_only p k e s).loader
  have heffects : Grounded (completionEffects k p e s) := h.exchange (completionEffects_only k p e s)
    (hparity.exchangeStep k e) ((h.roles.congr (channels_reportParity p k e s)).exchangeStep k e)
    (h.area.completionEffects k p e)
  unfold Machine.complete finishPort
  split
  · exact ((heffects.noteReports s).setAccess p (AccessState.fits_idle _)).arriveIfRequested p
  · exact (heffects.noteReports s).setAccess p (AccessState.fits_done _ _ _ _)

theorem Grounded.completeCycleless (h : Grounded s) (p : Port) : Grounded (completeCycleless p s) := by
  unfold Machine.completeCycleless
  split
  · split
    · exact h.complete p _ _
    · exact h
  · exact h

/-! ### The Loader and the Mirror -/

theorem loader_reportLoadEnd (l : Load) (c : ResultCode) (d : Detail) (s : State) :
    (reportLoadEnd l c d s).loader = s.loader := by
  unfold reportLoadEnd State.raiseBoth State.offerBoth
  simp

theorem Grounded.reportLoadEnd (h : Grounded s) (l : Load) (c : ResultCode) (d : Detail) :
    Grounded (reportLoadEnd l c d s) := by
  refine h.access (reportLoadEnd_only l c d s) ((SameSet.refl s).reportLoadEnd l c d)
    (h.roles.congr (channels_reportLoadEnd l c d s)) (h.area.reportLoadEnd l c d) ?_ fun p => ?_
  · rw [loader_reportLoadEnd]
    exact h.loader
  · rw [State.access, (reportLoadEnd_fields l s c d).1]
    exact h.ports p

/-- R111 to R113: the Loader goes to another state. -/
theorem Grounded.setLoader (h : Grounded s) {x : LoaderState} (hx : x.Fits (fittedWords s.msz)) (r : Option (BitVec 16)) :
    Grounded { s with loader := x, remembered := r } :=
  ⟨⟨h.roles, h.buffers, h.regions⟩, h.area, hx, h.ports⟩

theorem Grounded.markPart (h : Grounded s) (n : Nat) (hn : n ≤ 4 := by decide) : Grounded (s.mark (.part n)) :=
  h.exchange ((OnlyExchange.refl s).mark _) ((SameSet.refl s).mark _) (h.roles.mark _) (h.area.markPart n hn)

theorem Grounded.continueLoader (h : Grounded s) : Grounded (continueLoader s) := by
  rw [continueLoader_eq]
  exact (h.setLoader (fits_nextLoader s _) none).markPart 1

/-- R117, R122: a drain begins with a table set that has passed validation. -/
theorem Grounded.finishReading (h : Grounded s) (l : Load) : Grounded (finishReading l s) := by
  unfold Machine.finishReading
  split
  · exact (h.reportLoadEnd _ _ _).continueLoader
  · rename_i hvalid
    exact (h.setLoader (x := .draining l) ⟨fun d hd => by cases hd; exact hvalid, fun _ hr => nomatch hr⟩ s.remembered).markPart 1

theorem pickCandidates_lt {l : Load} {n : Nat} (h : n ∈ pickCandidates s l) : n < 24 := by
  unfold pickCandidates at h
  exact mem_indices.1 (List.mem_of_mem_filter h)

theorem Grounded.loaderReadDone (h : Grounded s) (w : Word) (e : Lanes) : Grounded (loaderReadDone w e s) := by
  unfold Machine.loaderReadDone
  split
  swap
  · exact h
  rename_i l hl
  have hcands : ∀ n ∈ l.cands, n < 24 := h.loader.2 l hl
  have hread : ∀ r : Load, (∀ n ∈ r.cands, n < 24) → Grounded { s with loader := .reading r } := fun r hr =>
    h.setLoader (x := .reading r) ⟨fun _ hd => (nomatch hd), fun q hq => by cases hq; exact hr⟩ s.remembered
  split
  · unfold tableReadDone
    split
    · exact (h.reportLoadEnd _ _ _).continueLoader
    · dsimp only
      split
      · exact hread _ hcands
      · split
        · exact h.finishReading _
        · exact hread _ fun n hn => pickCandidates_lt hn
  · unfold resumeReadDone
    dsimp only
    split
    · exact hread _ hcands
    · exact h.finishReading _

theorem Grounded.mirrorCycleDone (h : Grounded s) : Grounded (mirrorCycleDone s) := by
  have hfields : (Machine.mirrorCycleDone s).loader = s.loader ∧ (Machine.mirrorCycleDone s).ports = s.ports := by
    unfold Machine.mirrorCycleDone itemCompleted
    split
    · split
      · exact ⟨rfl, rfl⟩
      · split <;> exact ⟨rfl, rfl⟩
    · exact ⟨rfl, rfl⟩
  refine h.access (mirrorCycleDone_only s) (SameSet.refl s).mirrorCycleDone (h.roles.congr (channels_mirrorCycleDone s))
    h.area.mirrorCycleDone ?_ fun p => ?_
  · rw [hfields.1]
    exact h.loader
  · rw [State.access, hfields.2]
    exact h.ports p

theorem Grounded.memoryCycleEnd (h : Grounded s) : Grounded (memoryCycleEnd s) := by
  unfold Machine.memoryCycleEnd
  split
  · exact h
  · rename_i c _
    have hended : Grounded (s.cycleEnded c) := ⟨⟨h.roles, h.buffers, h.regions⟩, h.area, h.loader, h.ports⟩
    dsimp only
    split
    · split
      · exact hended.complete _ _ _
      · exact hended
    · exact hended.loaderReadDone _ _
    · exact hended.mirrorCycleDone

/-! ### The part's own events -/

/-- R124, R125: a carried channel keeps its depth, and a created one has no role but that of the resumed buffer. -/
theorem RoleLaw.installed (h : RoleLaw s) (l : Load) : RoleLaw (installed l s) := by
  intro n c hc
  have hn := State.channel?_lt hc
  by_cases hcar : carriesChannel s l n = true
  · obtain ⟨c0, hc0, -, hsame⟩ := carriesChannel_iff.1 hcar
    have hdescs := congrFun (descOf_endOldSet l s) n
    rw [channel?_installed hn, newChannel, if_pos hcar] at hc
    obtain ⟨d, hd, rfl⟩ := Option.map_eq_some_iff.1 hc
    rw [descOf_eq_some hd, descOf_eq_some hc0] at hdescs
    refine (h.endOldSet l n d hd).carried _ ?_
    rw [Option.some.inj hdescs, ChanDesc.depth, ((ChanDesc.sameBody_iff _ _).1 hsame).1]
    rfl
  · rw [channel?_installed hn, newChannel, if_neg hcar] at hc
    split at hc
    · cases hc
      exact Channel.roleLaw_created _ _ fun b hb => Load.resumed_lt hb
    · cases hc

/-- R120, R123: what is installed has passed validation. -/
theorem Grounded.installed (h : Grounded s) {l : Load} (hl : l.validate (fittedWords s.msz) = none) :
    Grounded (installed l s) := by
  obtain ⟨hregions, hchans⟩ := Load.spans_of_validate hl
  have hmsz : (Machine.installed l s).msz = s.msz := (installed_only l s).msz.trans (endOldSet_only l s).msz
  refine ⟨⟨?_, fun n d hd => ?_, fun r g hg => ?_⟩, h.area.installed l, ?_, fun p => ?_⟩
  · exact RoleLaw.installed h.roles l
  · obtain ⟨c, hc, rfl⟩ := Option.map_eq_some_iff.1 hd
    obtain ⟨hn, hvalid, hdesc⟩ := desc_of_channel_installed hc
    rw [hdesc, hmsz]
    exact hchans n (Load.mem_chans.2 ⟨hn, hvalid⟩)
  · rw [region?_installed] at hg
    rw [hmsz]
    split at hg
    · rename_i hr
      unfold installedRegion at hg
      split at hg
      · rename_i hvalid
        have hend := hregions r (List.mem_filter.2 ⟨List.mem_range.2 hr, hvalid⟩)
        split at hg
        · cases hg
          exact hend
        · cases hg
      · cases hg
    · cases hg
  · rw [(ports_loader_result_installed l s).2.1]
    exact fits_nextLoader s _
  · rw [(access_installed l s p).1, hmsz]
    exact h.ports p

theorem Grounded.install (h : Grounded s) : Grounded (install s) := by
  unfold Machine.install
  split
  · rename_i l hl
    split
    · exact (h.installed (h.loader.1 l hl)).takeHeld
    · exact h
  · exact h

theorem ownEvent_exchange {e : Instr} (he : e ≠ .install) (s : State) : OnlyExchange s (ownEvent e s) := by
  unfold ownEvent
  split
  · exact absurd rfl he
  · exact expirePass_only _ s
  · exact becomeStale_only _ s
  · exact releasePin_only _ _ s
  · exact partialPublication_only _ s
  · exact frameTick_only _ s
  · exact .refl s

theorem Grounded.ownEvent (h : Grounded s) {e : Instr} (he : e ∈ dueEvents s) : Grounded (ownEvent e s) := by
  by_cases hi : e = .install
  · rw [hi]
    exact h.install
  · exact h.exchange (ownEvent_exchange hi s) ((SameSet.refl s).ownEvent hi) (h.roles.ownEvent e) (h.area.ownEvent he hi)

/-! ### The part state (R172 to R174) -/

theorem Grounded.startHoldover (h : Grounded s) : Grounded (startHoldover s) := by
  have habort : ∀ v n, Grounded v → Grounded (abortPass v n) := by
    intro v n hv
    unfold abortPass
    split
    · exact hv
    · rename_i c hc
      split
      · exact hv
      · exact hv.exchange ((((OnlyExchange.refl v).modChannel n _).mark _).offer _ _)
          (((SameSet.refl v).endPass n).offer _ _) (((hv.roles.endPass n).mark _).offer _ _)
          ((hv.area.endPass (State.channel?_lt hc)).offer _ _)
  have hcancel : ∀ v g, Grounded v → Grounded (cancelGather v g) := by
    intro v g hv
    unfold cancelGather
    split
    · rename_i q hq
      exact hv.exchange (endGather_only g v) ((SameSet.refl v).endGather g) (hv.roles.congr (channels_endGather g v))
        (hv.area.endGather (State.group?_lt_of_bind hq))
    · exact hv
  have habandon : ∀ v, Grounded v → Grounded (abandonLoad v) := by
    intro v hv
    have hidle := (hv.setLoader (LoaderState.fits_idle _) none).markPart 1
    unfold abandonLoad
    split
    · exact hv
    · exact hidle.reportLoadEnd _ _ _
    · exact hidle.reportLoadEnd _ _ _
  have hstate : Grounded { s with partState := .holdover } := ⟨⟨h.roles, h.buffers, h.regions⟩, h.area, h.loader, h.ports⟩
  have hrecord := hstate.markPart 1
  have hoffered := hrecord.exchange ((OnlyExchange.refl _).offerBoth (holdoverRecord s))
    ((SameSet.refl _).offerBoth (holdoverRecord s)) (hrecord.roles.congr (channels_offerBoth _ _))
    (hrecord.area.offerBoth (holdoverRecord s))
  exact (habandon _ (List.foldlRecOn (motive := Grounded) indices cancelGather
    (List.foldlRecOn (motive := Grounded) indices abortPass hoffered fun v hv n _ => habort v n hv)
    fun v hv g _ => hcancel v g hv)).takeHeld

theorem Grounded.powerFails (h : Grounded s) : Grounded (powerFails s) := by
  have hpin : Grounded { s with pins := { s.pins with pfailN := false } } :=
    ⟨⟨h.roles, h.buffers, h.regions⟩, h.area, h.loader, h.ports⟩
  unfold Machine.powerFails
  dsimp only
  split
  · exact hpin.startHoldover
  · exact hpin

end Grounded
end Sys2Proof.Machine

/-! SUPPORT. The cycle that a grant starts, and the part in reset, under the bound of the M port (R76, R86, R97, R168); then
the law itself. -/
namespace Sys2Proof.Machine

/-! ### The cycle (R97, R98) -/

/-- R86: "The M port never drives an address at or above the fitted size." -/
def CycleFits (s : State) : Prop := ∀ c, s.cycle = some c → c.addr.toNat < fittedWords s.msz

section Cycle
variable {s t : State}

theorem CycleFits.congr (h : CycleFits s) (hm : t.msz = s.msz) (hc : t.cycle = s.cycle) : CycleFits t := by
  rw [CycleFits, hm, hc]
  exact h

theorem CycleFits.of_none (h : s.cycle = none) : CycleFits s := fun c hc => by
  rw [h] at hc
  cases hc

/-- R114: the read that the Loader asks for is the next of its load. -/
theorem loaderNext_eq_some {x : PhysAddr} (h : loaderNext s = some x) : ∃ l, s.loader = .reading l ∧ l.nextRead = some x := by
  unfold loaderNext at h
  split at h
  · rename_i l hl
    split at h
    · split at h
      · cases h
      · exact ⟨l, hl, h⟩
    · exact ⟨l, hl, h⟩
  · cases h

/-- R97: the cycle of a port, of the Loader and of the Mirror. -/
theorem Grounded.cycleFor (h : Grounded s) {r : Requester} {c : MCycle} (hc : cycleFor s r = some c) :
    c.addr.toNat < fittedWords s.msz := by
  cases r with
  | port p =>
    simp only [Machine.cycleFor] at hc
    split at hc
    · rename_i t ht
      obtain ⟨x, hx, rfl⟩ := Option.map_eq_some_iff.1 hc
      exact h.ports p t (.inl ht) x hx
    · cases hc
  | engine =>
    simp only [Machine.cycleFor] at hc
    split at hc
    · rename_i x hx
      obtain ⟨l, hl, hnext⟩ := loaderNext_eq_some hx
      cases hc
      exact Load.nextRead_lt (h.loader.2 l hl) hnext s.msz
    · obtain ⟨f, hf, rfl⟩ := Option.map_eq_some_iff.1 hc
      exact ctl_lt_fittedWords (MirrorItem.word_lt (h.area.served hf) (servedFlight_eq_some hf).1) s.msz

theorem CycleFits.grant (h : CycleFits s) (hg : Grounded s) : CycleFits (grant s) := by
  intro c hc
  change onGrant s s.cycle (Machine.cycleFor s) = some c at hc
  unfold onGrant at hc
  split at hc
  · exact hg.cycleFor hc
  · exact h c hc

theorem Grounded.grant (h : Grounded s) : Grounded (grant s) := by
  refine ⟨⟨h.roles, h.buffers, h.regions⟩, h.area.grant, h.loader, fun p => ?_⟩
  have hports : (Machine.grant s).ports = onGrant s s.ports (portsGranted s) := rfl
  rw [State.access, hports]
  unfold onGrant portsGranted
  split
  · split
    · rename_i q _
      split
      · rename_i t ht
        exact (h.setAccess q (AccessState.fits_inCycle.2 (h.ports q t (.inl ht)))).ports p
      · exact h.ports p
    · exact h.ports p
  · exact h.ports p

/-- An effect that is no grant leaves the cycle, or ends it. -/
theorem OnlyAccess.cycleFits (h : OnlyAccess s t) (hc : CycleFits s) : CycleFits t := hc.congr h.msz h.cycle

theorem CycleFits.ownEvent (h : CycleFits s) (e : Instr) : CycleFits (ownEvent e s) := by
  by_cases hi : e = .install
  · rw [hi]
    change CycleFits (install s)
    unfold install
    split
    · rename_i l _
      split
      · have hend : CycleFits (takeNewSet l s (endOldSet l s)) := (endOldSet_only l s).toAccess.cycleFits h
        exact ((installed_only l s).trans (takeHeld_only _)).cycleFits hend
      · exact h
    · exact h
  · exact (ownEvent_exchange hi s).toAccess.cycleFits h

theorem CycleFits.memoryCycleEnd (h : CycleFits s) : CycleFits (memoryCycleEnd s) := by
  cases hc : s.cycle with
  | none =>
    rw [memoryCycleEnd_of_none hc]
    exact h
  | some c => exact (memoryCycleEnd_only hc).cycleFits (.of_none rfl)

/-- R55: an edge of TCLK leaves all but the count and the clock. -/
theorem clockEdge_cases (s : State) : clockEdge s = s ∨ s.pins.rstN = true ∧
    ∃ k n, clockEdge s = { s with prescaler := k, clock := n } := by
  unfold clockEdge
  split
  · rename_i hr
    split
    · exact .inr ⟨hr, _, _, rfl⟩
    · exact .inr ⟨hr, _, _, rfl⟩
  · exact .inl rfl

theorem CycleFits.clockEdge (h : CycleFits s) : CycleFits (clockEdge s) := by
  rcases clockEdge_cases s with e | ⟨-, k, n, e⟩
  · rwa [e]
  · rw [e]
    exact h

theorem Grounded.clockEdge (h : Grounded s) : Grounded (clockEdge s) := by
  rcases clockEdge_cases s with e | ⟨-, k, n, e⟩
  · rwa [e]
  · rw [e]
    exact ⟨⟨h.roles, h.buffers, h.regions⟩, h.area, h.loader, h.ports⟩

theorem CycleFits.powerFails (h : CycleFits s) : CycleFits (powerFails s) := by
  obtain ⟨x, -, ho⟩ := powerFails_only s
  exact ho.cycleFits h

end Cycle

/-! ### Reset (R168) -/

/-- R168: no access is in flight, the M port is free, nothing is installed, the Loader is IDLE. -/
structure Vacant (s : State) : Prop where
  access : ∀ p, s.access p = .idle
  cycle : s.cycle = none
  channels : ∀ n, s.channel? n = none
  groups : ∀ g, s.group? g = none
  regions : ∀ r, s.region? r = none
  loader : s.loader = .idle

theorem resetLaw_iff {s : State} : ResetLaw s ↔ (s.pins.rstN = false → Vacant s) :=
  ⟨fun h hr => have ⟨ha, hc, hch, hg, hre, hl⟩ := h hr; ⟨ha, hc, hch, hg, hre, hl⟩,
    fun h hr => have v := h hr; ⟨v.access, v.cycle, v.channels, v.groups, v.regions, v.loader⟩⟩

section Vacant
variable {s t : State}

theorem Vacant.grounded (h : Vacant s) (ha : AreaLaw s) : Grounded s where
  roles n c hc := by
    rw [h.channels] at hc
    cases hc
  buffers n d hd := by
    rw [State.descOf, h.channels] at hd
    cases hd
  regions r g hg := by
    rw [h.regions] at hg
    cases hg
  area := ha
  loader := by
    rw [h.loader]
    exact LoaderState.fits_idle _
  ports p := by
    rw [h.access]
    exact AccessState.fits_idle _

/-- Nothing is due where nothing is installed. -/
theorem Vacant.dueEvents (h : Vacant s) {e : Instr} : e ∉ dueEvents s := by
  intro he
  rcases mem_dueEvents.1 he with ⟨-, hd⟩ | ⟨n, -, hd⟩ | ⟨n, -, hd⟩ | ⟨g, -, hd⟩ | ⟨g, -, hd⟩ | ⟨g, -, hd⟩
  · rw [installOwed_eq_false_of_loader fun l hl => by rw [h.loader] at hl; cases hl] at hd
    cases hd
  · simp [fillDue, h.channels] at hd
  · simp [freshDue, h.channels] at hd
  · simp [holdDue, h.groups] at hd
  · simp [gatherDue, h.groups] at hd
  · simp [frameDue, h.groups] at hd

theorem vacant_enterReset (s : State) : Vacant (enterReset s) where
  access p := by cases p <;> rfl
  cycle := rfl
  channels := channel?_enterReset s
  groups := group?_enterReset s
  regions := region?_reset
  loader := rfl

theorem areaLaw_enterReset (s : State) : AreaLaw (enterReset s) := by
  obtain ⟨-, -, -, -, -, -, hdirty, hflight, -⟩ := fittedLaw_reset
  exact ⟨hdirty, hflight⟩

theorem Vacant.of_fields (h : Vacant s) (hp : ∀ p, t.access p = s.access p) (hcycle : t.cycle = s.cycle)
    (hc : t.channels = s.channels) (hg : t.groups = s.groups) (hr : t.regions = s.regions) (hl : t.loader = s.loader) :
    Vacant t where
  access p := (hp p).trans (h.access p)
  cycle := hcycle.trans h.cycle
  channels n := (channel?_congr hc n).trans (h.channels n)
  groups g := (group?_congr hg g).trans (h.groups g)
  regions r := by
    rw [State.region?, hr]
    exact h.regions r
  loader := hl.trans h.loader

theorem Vacant.noteReports (h : Vacant s) (b : State) : Vacant (noteReports b s) :=
  have ho := noteReports_only b s
  h.of_fields (fun p => by rw [State.access, ho.ports]; rfl) ho.cycle (channels_noteReports b s) (groups_noteReports b s)
    ho.regions ho.loader

/-- R168: "no grant is made" while RST_N is low. -/
theorem granted_of_reset (h : s.pins.rstN = false) : granted s = none := by
  rw [granted, h]
  rfl

theorem Vacant.grant (h : Vacant s) (hr : s.pins.rstN = false) : Vacant (grant s) := by
  have hports : (Machine.grant s).ports = s.ports := by
    change onGrant s _ _ = _
    rw [onGrant, granted_of_reset hr]
  have hcycle : (Machine.grant s).cycle = s.cycle := by
    change onGrant s _ _ = _
    rw [onGrant, granted_of_reset hr]
  exact h.of_fields (fun p => by rw [State.access, hports]; rfl) hcycle rfl rfl rfl rfl

/-! ### Effects in reset -/

theorem Vacant.present (h : Vacant s) (hr : s.pins.rstN = false) (p : Port) (d : Drive) : Vacant (present p d s) := by
  have hdrive : Machine.present p d s = drivePort p d s := by
    rw [Machine.present, hr]
    rfl
  rw [hdrive]
  exact h.of_fields (fun q => by cases p <;> cases q <;> rfl) rfl rfl rfl rfl rfl

theorem Vacant.dropReq (h : Vacant s) (p : Port) : Vacant (dropReq p s) := by
  unfold Machine.dropReq
  split
  · refine h.of_fields (fun q => ?_) rfl rfl rfl rfl rfl
    have hp := h.access p
    cases p <;> cases q
    · exact (congrArg AccessState.afterReqFall hp).trans hp.symm
    · rfl
    · rfl
    · exact (congrArg AccessState.afterReqFall hp).trans hp.symm
  · exact h

theorem Vacant.completeCycleless (h : Vacant s) (p : Port) : Vacant (completeCycleless p s) := by
  have hkeep : Machine.completeCycleless p s = s := by rw [Machine.completeCycleless, h.access]
  rwa [hkeep]

theorem Vacant.memoryCycleEnd (h : Vacant s) : Vacant (memoryCycleEnd s) := by
  rwa [memoryCycleEnd_of_none h.cycle]

theorem Vacant.clockEdge (h : Vacant s) (hr : s.pins.rstN = false) : Vacant (clockEdge s) := by
  rcases clockEdge_cases s with e | ⟨hr', -⟩
  · rwa [e]
  · rw [hr] at hr'
    cases hr'

theorem Vacant.powerFails (h : Vacant s) (hr : s.pins.rstN = false) : Vacant (powerFails s) := by
  have hpin : Machine.powerFails s = { s with pins := { s.pins with pfailN := false } } := by
    simp [Machine.powerFails, hr]
  rw [hpin]
  exact h.of_fields (fun _ => rfl) rfl rfl rfl rfl rfl

end Vacant

/-! ### The law -/

section Law
variable {s t : State}

theorem fittedLaw_iff : FittedLaw s ↔ CycleFits s ∧ Grounded s ∧ (s.pins.rstN = false → Vacant s) := by
  have hflight : ∀ p t, s.inFlight? p = some t ↔ s.access p = .taken t ∨ s.access p = .inCycle t := by
    intro p t
    unfold State.inFlight?
    cases s.access p <;> simp
  have hdesc : ∀ n d, s.descOf n = some d ↔ ∃ c, s.channel? n = some c ∧ c.desc = d := fun n d => Option.map_eq_some_iff
  rw [← resetLaw_iff]
  constructor
  · rintro ⟨hcycle, hports, hchans, hregions, hdrain, hread, hdirty, hmirror, hreset⟩
    refine ⟨hcycle, ⟨⟨fun n c hc => (hchans n c hc).1, fun n d hd => ?_, hregions⟩, ⟨hdirty, hmirror⟩, ⟨hdrain, hread⟩,
      fun p t ht x hx => hports p t x ((hflight p t).2 ht) hx⟩, hreset⟩
    obtain ⟨c, hc, rfl⟩ := (hdesc n d).1 hd
    exact (hchans n c hc).2
  · rintro ⟨hcycle, hg, hreset⟩
    exact ⟨hcycle, fun p t x ht hx => hg.ports p t ((hflight p t).1 ht) x hx,
      fun n c hc => ⟨hg.roles n c hc, hg.buffers n c.desc ((hdesc n _).2 ⟨c, hc, rfl⟩)⟩, hg.regions, hg.loader.1, hg.loader.2,
      hg.area.1, hg.area.2, hreset⟩

theorem FittedLaw.grant (h : FittedLaw s) : FittedLaw (grant s) := by
  obtain ⟨hcycle, hg, hreset⟩ := fittedLaw_iff.1 h
  exact fittedLaw_iff.2 ⟨hcycle.grant hg, hg.grant, fun hr => (hreset hr).grant hr⟩

/-- An effect that keeps the pin RST_N, and all that the law rests on. -/
theorem FittedLaw.ungranted {f : State → State} (h : FittedLaw s) (hpin : (f s).pins.rstN = s.pins.rstN)
    (hcycle : CycleFits s → CycleFits (f s)) (hg : Grounded s → Grounded (f s))
    (hreset : Vacant s → s.pins.rstN = false → Vacant (f s)) : FittedLaw (ungranted f s) := by
  obtain ⟨hc, hgs, hrs⟩ := fittedLaw_iff.1 h
  have ho := noteReports_only s (f s)
  refine fittedLaw_iff.2 ⟨ho.toAccess.cycleFits (hcycle hc), (hg hgs).noteReports s, fun hr => ?_⟩
  have hlow : s.pins.rstN = false := by rwa [← hpin, ← ho.pins]
  exact (hreset (hrs hlow) hlow).noteReports s

theorem FittedLaw.event {f : State → State} (h : FittedLaw s) (hpin : (f s).pins.rstN = s.pins.rstN)
    (hcycle : CycleFits s → CycleFits (f s)) (hg : Grounded s → Grounded (f s))
    (hreset : Vacant s → s.pins.rstN = false → Vacant (f s)) : FittedLaw (event f s) :=
  (h.ungranted hpin hcycle hg hreset).grant

theorem fittedLaw_enterReset (s : State) : FittedLaw (enterReset s) :=
  have hv := vacant_enterReset s
  fittedLaw_iff.2 ⟨.of_none rfl, hv.grounded (areaLaw_enterReset s), fun _ => hv⟩

theorem memoryCycleEnd_pins (s : State) : (memoryCycleEnd s).pins = s.pins := by
  cases hc : s.cycle with
  | none => rw [memoryCycleEnd_of_none hc]
  | some c => exact (memoryCycleEnd_only hc).pins

theorem clockEdge_pins (s : State) : (clockEdge s).pins = s.pins := by
  rcases clockEdge_cases s with e | ⟨-, k, n, e⟩ <;> rw [e]

theorem powerFails_rstN (s : State) : (powerFails s).pins.rstN = s.pins.rstN := by
  obtain ⟨x, -, ho⟩ := powerFails_only s
  rw [ho.pins]

/-- R169: at the rise of RST_N nothing is installed, so what the straps set bounds nothing. -/
theorem FittedLaw.leaveReset (h : FittedLaw s) (hr : s.pins.rstN = false) (m : BitVec 2) (c f : Bool) :
    FittedLaw (Machine.event (Machine.leaveReset m c f) s) := by
  obtain ⟨-, hg, hreset⟩ := fittedLaw_iff.1 h
  obtain ⟨x, -, ho⟩ := leaveReset_only m c f s
  have hv := hreset hr
  have hvacant : Vacant (sampleStraps m c f s) := hv.of_fields (fun _ => rfl) rfl rfl rfl rfl rfl
  have hstraps : Grounded (sampleStraps m c f s) := hvacant.grounded hg.area
  have hleft : Grounded (Machine.leaveReset m c f s) := by
    refine Grounded.arriveIfRequested (Grounded.arriveIfRequested ?_ _) _
    split
    · exact hstraps.startHoldover
    · exact hstraps
  have hrise : (noteReports s (Machine.leaveReset m c f s)).pins.rstN = true := by
    rw [(noteReports_only _ _).pins, ho.pins]
    rfl
  refine FittedLaw.grant (fittedLaw_iff.2 ⟨?_, hleft.noteReports s, fun hlow => ?_⟩)
  · exact .of_none ((noteReports_only _ _).cycle.trans (ho.cycle.trans hv.cycle))
  · cases hrise.symm.trans hlow

end Law

/-- Settles O59: an effect keeps all that the cycle of a grant rests on (`Grounded`), and in reset there is nothing that it
could act on (`Vacant`). -/
theorem everyStepKeepsTheFittedLaw : Obligations.EveryStepKeepsTheFittedLaw := by
  intro s t hs h
  refine step_keeps FittedLaw (fun _ _ hs => hs) (fun e u he hu => ?_) (fun p d u hu => ?_) (fun p u hu => ?_) (fun u hu => ?_)
    (fun p u hu => ?_) (fun u hu => ?_) (fun u hu => ?_) (fun u hu => ?_) (fun u hu => ?_)
    (fun m c f u hr hu => hu.leaveReset hr m c f) hs h
  · exact hu.event (congrArg Pins.rstN (ownEvent_only e u).pins) (fun hc => hc.ownEvent e) (fun hg => hg.ownEvent he)
      fun hv _ => absurd he hv.dueEvents
  · exact hu.event (congrArg Pins.rstN (present_only p d u).pins) (present_only p d u).cycleFits (fun hg => hg.present p d)
      fun hv hr => hv.present hr p d
  · exact hu.event (congrArg Pins.rstN (dropReq_only p u).pins) (dropReq_only p u).cycleFits (fun hg => hg.dropReq p)
      fun hv _ => hv.dropReq p
  · exact hu.event (congrArg Pins.rstN (memoryCycleEnd_pins u)) CycleFits.memoryCycleEnd Grounded.memoryCycleEnd
      fun hv _ => hv.memoryCycleEnd
  · exact hu.event (congrArg Pins.rstN (completeCycleless_only p u).pins) (completeCycleless_only p u).cycleFits
      (fun hg => hg.completeCycleless p) fun hv _ => hv.completeCycleless p
  · exact hu.event (congrArg Pins.rstN (clockEdge_pins u)) CycleFits.clockEdge Grounded.clockEdge Vacant.clockEdge
  · exact hu.event (powerFails_rstN u) CycleFits.powerFails Grounded.powerFails Vacant.powerFails
  · exact hu.ungranted (powerFails_rstN u) CycleFits.powerFails Grounded.powerFails Vacant.powerFails
  · unfold resetFalls
    split
    · exact fittedLaw_enterReset u
    · exact hu

end Sys2Proof.Machine

/-! SUPPORT. The rise of RST_N (R85, R92, R169, R170, R172): the straps, the start of holdover in a part with nothing installed,
and the arrivals at the rise. -/
namespace Sys2Proof.Machine

section Rise
variable {s t : State}

/-! ### Arrivals at the rise (R92) -/

/-- R72: what is tied to an access of one port leaves the interface of the other alone. -/
theorem ports_take_of_ne {p q : Port} (h : q ≠ p) (d : Drive) (s : State) : (take p d s).ports.get q = s.ports.get q := by
  unfold take
  rw [State.setAccess_ports, Both.get_modify_of_ne _ h, ports_decodeAndAct]

theorem ports_arrive_of_ne {p q : Port} (h : q ≠ p) (d : Drive) (s : State) :
    (arrive p d s).ports.get q = s.ports.get q := by
  unfold arrive
  split
  · rw [State.setAccess_ports, Both.get_modify_of_ne _ h]
  · exact ports_take_of_ne h d s

/-- The arrival at `t` of the access that port `p` has waiting in `s`, if its REQ is high. -/
def arrivedFrom (s : State) (p : Port) (t : State) : State :=
  if (s.ports.get p).req = true then arrive p (s.ports.get p).inputs t else t

theorem arriveIfRequested_eq {p : Port} (hp : t.ports.get p = s.ports.get p) (ha : s.access p = .idle) :
    arriveIfRequested p t = arrivedFrom s p t := by
  have hidle : t.access p = .idle := by
    rw [State.access, hp]
    exact ha
  unfold arriveIfRequested arrivedFrom
  rw [hp, hidle]
  cases (s.ports.get p).req <;> rfl

/-- R92: both ports are IDLE at the rise, so each takes its arrival whatever the other does. -/
theorem arrivalsAtRise_eq (hp : t.ports = s.ports) (hA : s.access .A = .idle) (hB : s.access .B = .idle) :
    arrivalsAtRise t = arrivedFrom s .B (arrivedFrom s .A t) := by
  have hother : (arrivedFrom s .A t).ports.get .B = s.ports.get .B := by
    unfold arrivedFrom
    split
    · rw [ports_arrive_of_ne (by decide), hp]
    · rw [hp]
  rw [arrivalsAtRise, arriveIfRequested_eq (by rw [hp]) hA, arriveIfRequested_eq hother hB]

/-- R92: at the rise one port alone may have an access that waits. -/
theorem arrivedFrom_both {p : Port} (h : (s.ports.get p.other).req = false) (t : State) :
    arrivedFrom s .B (arrivedFrom s .A t) = arrivedFrom s p t := by
  have hother : ∀ u, arrivedFrom s p.other u = u := fun u => if_neg (by rw [h]; decide)
  cases p
  · exact hother _
  · exact congrArg (arrivedFrom s .B) (hother t)

/-- A port that raises REQ again with its inputs as they were is as it was. -/
theorem drivePort_of_droppedReq {p : Port} (h : (s.ports.get p).req = true) :
    drivePort p (s.ports.get p).inputs { s with ports := s.ports.modify p fun q => { q with req := false } } = s := by
  have hports : ((s.ports.modify p fun q => { q with req := false }).modify p fun q =>
      { q with req := true, inputs := (s.ports.get p).inputs }) = s.ports := by
    refine Both.ext_get fun q => ?_
    by_cases hq : q = p
    · subst hq
      rw [Both.get_modify_self, Both.get_modify_self, ← h]
    · rw [Both.get_modify_of_ne _ hq, Both.get_modify_of_ne _ hq]
  exact congrArg (fun x => { s with ports := x }) hports

/-- R92: the rise of REQ is for a port what the rise of RST_N is for it with REQ high. -/
theorem present_of_droppedReq {p : Port} (hr : s.pins.rstN = true) (h : (s.ports.get p).req = true) :
    present p (s.ports.get p).inputs { s with ports := s.ports.modify p fun q => { q with req := false } } =
      arriveIfRequested p s := by
  have hlow : ((s.ports.modify p fun q => { q with req := false }).get p).req = false := by rw [Both.get_modify_self]
  rw [present, drivePort_of_droppedReq h]
  exact if_pos (by rw [hr, hlow]; rfl)

/-! ### The event (R169, R170) -/

theorem exec_resetRelease (h : s.pins.rstN = false) (m : BitVec 2) (c f : Bool) :
    exec (.resetRelease m c f) s = .next (grant (noteReports s (leaveReset m c f s))) := by
  unfold exec execResetRelease
  rw [h]
  rfl

theorem noteReports_congr {b b' : State} (h : ∀ q, pendingSet b q = pendingSet b' q) (s : State) :
    noteReports b s = noteReports b' s := by
  have hone : ∀ p u, noteReport b p u = noteReport b' p u := fun p u => by rw [noteReport, noteReport, h]
  rw [noteReports, noteReports, hone, hone]

/-! ### Holdover at the rise (R172, R175, R178) -/

theorem takeHeld_of_idle (hA : s.access .A = .idle) (hB : s.access .B = .idle) : takeHeld s = s := by
  rw [takeHeld, takeHeldOf, takeHeldOf, hA]
  dsimp only
  rw [hB]

/-- R175: the HOLDOVER record of a part without channels and without a load. -/
theorem holdoverRecord_of_vacant (hp : s.partState = .unconfigured) (hc : ∀ n, s.channel? n = none) (hl : s.loader = .idle) :
    holdoverRecord s = mkRecord .holdover 0 none 0 0 s.clock 0 := by
  have hmask : keptMask s = 0 := by
    have hnone : s.hasPending = fun _ => false := by
      funext n
      rw [State.hasPending, hc]
    rw [keptMask, hnone]
    simp [channelMask]
  rw [holdoverRecord, hmask, hl, hp]
  rfl

/-- R173, R174: with nothing installed and no load, holdover begins with its record alone. -/
theorem holdoverEntered_of_vacant (hc : ∀ n, s.channel? n = none) (hg : ∀ g, s.group? g = none) (hl : s.loader = .idle) :
    holdoverEntered s = ({ s with partState := .holdover }.mark (.part 1)).offerBoth (holdoverRecord s) := by
  have hnone : ∀ n c, (({ s with partState := .holdover }.mark (.part 1)).offerBoth (holdoverRecord s)).channel? n = some c →
      c.pass = none := fun n c h => nomatch (hc n).symm.trans h
  have hgroup : ∀ g gr, (({ s with partState := .holdover }.mark (.part 1)).offerBoth (holdoverRecord s)).group? g = some gr →
      gr.gather = none := fun g gr h => nomatch (hg g).symm.trans h
  rw [holdoverEntered, foldl_abortPass_of_none hnone, foldl_cancelGather_of_none hgroup]
  exact abandonLoad_of_idle hl

/-- One record for both journals. -/
theorem tells_offerBoth (s : State) (r : Record) : Tells s (s.offerBoth r) (fun _ => [r]) (fun _ => 0) [] := by
  refine ((tells_offer s .A r).trans (tells_offer _ .B r)).congr (fun p => ?_) (fun _ => rfl) fun _ => Iff.rfl
  cases p <;> rfl

/-- R172, R178: the start of holdover in a part with nothing installed, no load and no access. -/
theorem startHoldover_of_vacant (hp : s.partState = .unconfigured) (hc : ∀ n, s.channel? n = none)
    (hg : ∀ g, s.group? g = none) (hl : s.loader = .idle) (hA : s.access .A = .idle) (hB : s.access .B = .idle) :
    let rs := [mkRecord .holdover 0 none 0 0 s.clock 0]
    startHoldover s = { s with
        partState := .holdover
        journals := { a := offers s.clock s.journals.a rs, b := offers s.clock s.journals.b rs }
        attention := { a := s.attention.a.told 0 s.clock s.journals.a rs, b := s.attention.b.told 0 s.clock s.journals.b rs }
        mirror := (startHoldover s).mirror } ∧
      Marks s (startHoldover s) (.part 1 :: offersMark s.clock .A s.journals.a rs ++ offersMark s.clock .B s.journals.b rs) := by
  intro rs
  have hstart : Machine.startHoldover s =
      ({ s with partState := .holdover }.mark (.part 1)).offerBoth (mkRecord .holdover 0 none 0 0 s.clock 0) := by
    rw [startHoldover_eq, holdoverEntered_of_vacant hc hg hl, holdoverRecord_of_vacant hp hc hl]
    exact takeHeld_of_idle hA hB
  have htells := (tells_mark { s with partState := .holdover } (.part 1)).trans
    (tells_offerBoth _ (mkRecord .holdover 0 none 0 0 s.clock 0))
  rw [hstart]
  generalize hw : ({ s with partState := .holdover }.mark (.part 1)).offerBoth (mkRecord .holdover 0 none 0 0 s.clock 0) = w
    at htells
  have hfields : w = { s with
      partState := .holdover, journals := w.journals, attention := w.attention, mirror := w.mirror } := by
    rw [← hw]
    rfl
  have hjournals : w.journals = { a := offers s.clock s.journals.a rs, b := offers s.clock s.journals.b rs } :=
    Both.ext_get fun p => by
      rw [htells.journal]
      cases p <;> rfl
  have hattention : w.attention =
      { a := s.attention.a.told 0 s.clock s.journals.a rs, b := s.attention.b.told 0 s.clock s.journals.b rs } :=
    Both.ext_get fun p => by
      rw [htells.attention]
      cases p <;> rfl
  rw [hjournals, hattention] at hfields
  exact ⟨hfields, htells.marks⟩

end Rise

/-- Settles O50: the rise samples the straps, begins holdover where PFAIL_N is low, and then takes the arrivals. -/
theorem aRiseOfRstSamplesTheStraps : Obligations.ARiseOfRstSamplesTheStraps := by
  intro s m h arrived risen hlow hA hB
  have hrise : exec (.resetRelease m h false) s = .next (grant (noteReports s (arrived .B (arrived .A risen)))) := by
    rw [exec_resetRelease hlow]
    exact congrArg (fun w => Host.Outcome.next (grant (noteReports s w))) (arrivalsAtRise_eq rfl hA hB)
  refine ⟨⟨hrise, rfl⟩, ?_, ?_⟩
  · intro p hreq hother before hsettled
    have hpresent : present p (s.ports.get p).inputs before = arrived .B (arrived .A risen) := by
      have hidle : s.access p = .idle := by cases p <;> assumption
      calc present p (s.ports.get p).inputs before
        _ = arriveIfRequested p risen := present_of_droppedReq (s := risen) rfl hreq
        _ = arrivedFrom s p risen := arriveIfRequested_eq rfl hidle
        _ = arrived .B (arrived .A risen) := (arrivedFrom_both hother risen).symm
    have hpending : ∀ q, pendingSet s q = pendingSet before q := pendingSet_of_fields rfl rfl rfl rfl
    rw [hrise, exec_portAccessTake, settle, settleFor_of_settled _ hsettled, hpresent, noteReports_congr hpending]
  · intro hp hc hg hl rs
    let low : State := { risen with pins := { risen.pins with pfailN := false } }
    obtain ⟨heq, hmarks⟩ := startHoldover_of_vacant (s := low) hp hc hg hl hA hB
    have hports : (startHoldover low).ports = s.ports := by
      rw [heq]
    have hstraps : sampleStraps m h true s = low := rfl
    have hleave : leaveReset m h true s = arrivalsAtRise (startHoldover low) := by
      simp only [leaveReset, if_true, hstraps]
    refine ⟨startHoldover low, ?_, heq, hmarks⟩
    rw [exec_resetRelease hlow, hleave, arrivalsAtRise_eq hports hA hB]
    rfl

end Sys2Proof.Machine

/-! SUPPORT. Who touches memory (R97, R107), check bits as counts of ones (R101, R102), and the lanes that a reset cuts off
(R107, R171). -/
namespace Sys2Proof.Machine

/-! ### Commands that leave memory alone -/

theorem clockEdge_mem (s : State) : (clockEdge s).mem = s.mem := by
  rcases clockEdge_cases s with h | ⟨-, k, n, h⟩ <;> rw [h]

theorem powerFails_mem (s : State) : (powerFails s).mem = s.mem := by
  obtain ⟨x, -, ho⟩ := powerFails_only s
  exact ho.mem

theorem leaveReset_mem (m : BitVec 2) (c f : Bool) (s : State) : (leaveReset m c f s).mem = s.mem := by
  obtain ⟨x, -, ho⟩ := leaveReset_only m c f s
  exact ho.mem

/-- R97: the end of a cycle changes memory as that cycle asks. -/
theorem memoryCycleEnd_mem {s : State} {c : MCycle} (hc : s.cycle = some c) :
    (memoryCycleEnd s).mem = cycleMem s.mem c := (memoryCycleEnd_only hc).mem

/-- R97: the end of a read cycle, and M_RDY without a cycle, leave memory as it was. -/
theorem memoryCycleEnd_mem_of_read {s : State} (h : ∀ c, s.cycle = some c → c.wr = false) :
    (memoryCycleEnd s).mem = s.mem := by
  cases hc : s.cycle with
  | none => rw [memoryCycleEnd_of_none hc]
  | some c =>
    rw [memoryCycleEnd_mem hc, cycleMem, h c hc]
    rfl

/-- Of the effects from outside the part only the end of a write cycle touches memory. -/
theorem Outside.mem {i : Instr} {f : State → State} (h : Outside i f) {s : State}
    (hread : i = .memoryCycleEnd → ∀ c, s.cycle = some c → c.wr = false) : (f s).mem = s.mem := by
  cases h with
  | access _ => exact (present_only _ _ s).mem
  | reqFall p => exact (dropReq_only p s).mem
  | cycleEnd => exact memoryCycleEnd_mem_of_read (hread rfl)
  | cycleless p => exact (completeCycleless_only p s).mem
  | tick => exact clockEdge_mem s
  | tclkEdge => exact clockEdge_mem s
  | holdover => exact powerFails_mem s

/-- Settles O5: each kind of command, but for the fall of RST_N, in turn. -/
theorem onlyAWriteCycleOrAResetTouchesMemory : Obligations.OnlyAWriteCycleOrAResetTouchesMemory := by
  intro i s t hi hread h
  have hsettle : (settle s).mem = s.mem := settle_mem s
  rcases exec_cases i s with ⟨f, hf, e⟩ | ⟨-, e⟩ | ⟨-, -, e⟩ | ⟨rfl, -⟩ | ⟨m, c, f, -, -, e⟩ | ⟨-, -, e⟩
  · cases e.symm.trans h
    rw [(event_only f _).mem, hf.mem hread, hsettle]
  · cases e.symm.trans h
    rw [(event_only _ s).mem, (ownEvent_only i s).mem]
  · cases e.symm.trans h
    rfl
  · exact absurd rfl hi
  · cases e.symm.trans h
    rw [(event_only _ s).mem, leaveReset_mem]
  · cases e.symm.trans h
    rw [(ungranted_only powerFails _).mem, powerFails_mem, hsettle]

/-! ### Counts of ones (R101, R102) -/

/-- Whether a list holds an odd number of elements that pass a test, added up modulo 2 along the list. -/
theorem length_filter_mod_two {α : Type} (f : α → Bool) (l : List α) :
    (l.filter f).length % 2 = (l.foldr (fun i b => f i ^^ b) false).toNat := by
  induction l with
  | nil => rfl
  | cons i rest ih =>
    cases hi : f i with
    | false => simpa [hi] using ih
    | true =>
      simp only [List.filter_cons_of_pos hi, List.length_cons, List.foldr_cons, hi]
      generalize rest.foldr (fun i b => f i ^^ b) false = b at ih ⊢
      cases b <;> simp only [Bool.toNat_false, Bool.toNat_true, Bool.xor_true, Bool.not_true, Bool.not_false,
        Bool.true_xor] at ih ⊢ <;> omega

theorem ones_mod_two (b : BitVec 8) : ((List.range 8).filter b.getLsbD).length % 2 = (oddOnes b).toNat := by
  have hfold : (List.range 8).foldr (fun i x => b.getLsbD i ^^ x) false = oddOnes b := by
    simp only [List.range, List.range.loop, List.foldr, Bool.xor_false, oddOnes, Bool.xor_assoc]
  rw [length_filter_mod_two, hfold]

/-- R102: a lane is in error when its data bits and its check bit together hold an even number of ones. -/
theorem laneInError_iff (b : BitVec 8) (chk : Bool) :
    laneInError b chk = true ↔ (((List.range 8).filter b.getLsbD).length + chk.toNat) % 2 = 0 := by
  rw [Nat.add_mod, ones_mod_two, laneInError]
  cases oddOnes b <;> cases chk <;> decide

/-- R101: with the generated check bit a lane holds an odd number of ones. -/
theorem ones_with_checkBit (b : BitVec 8) :
    (((List.range 8).filter b.getLsbD).length + (checkBit b).toNat) % 2 = 1 := by
  have hnot : ¬ laneInError b (checkBit b) = true := by simp [laneInError, checkBit]
  rw [laneInError_iff] at hnot
  omega

/-- R102: the lanes named in error are those whose data and check bit disagree. -/
theorem getLsbD_errors (m : Sram) (a : PhysAddr) {i : Nat} (hi : i < 4) :
    (m.errors a).getLsbD i = laneInError (m.byte a i) (m.chk a i) := by
  have hbits : ∀ b3 b2 b1 b0 : Bool,
      let l : Lanes := (BitVec.ofBool b3 ++ BitVec.ofBool b2 ++ BitVec.ofBool b1 ++ BitVec.ofBool b0 :
        BitVec (1 + 1 + 1 + 1))
      l.getLsbD 0 = b0 ∧ l.getLsbD 1 = b1 ∧ l.getLsbD 2 = b2 ∧ l.getLsbD 3 = b3 := by decide
  obtain ⟨h0, h1, h2, h3⟩ := hbits (laneInError (m.byte a 3) (m.chk a 3)) (laneInError (m.byte a 2) (m.chk a 2))
    (laneInError (m.byte a 1) (m.chk a 1)) (laneInError (m.byte a 0) (m.chk a 0))
  obtain rfl | rfl | rfl | rfl : i = 0 ∨ i = 1 ∨ i = 2 ∨ i = 3 := by omega
  · exact h0
  · exact h1
  · exact h2
  · exact h3

/-- Settles O6: the write of the cycle in progress, lane by lane; R101 and R102 as counts of ones. -/
theorem aWriteCycleLandsInItsDrivenLanes : Obligations.AWriteCycleLandsInItsDrivenLanes := by
  refine ⟨fun s t c hwf hc hwr h a i hi => ?_, fun m a i hi => by rw [getLsbD_errors m a hi, laneInError_iff]⟩
  have hmem : t.mem = s.mem.write c.addr c.lanes c.data := by
    cases (exec_memoryCycleEnd rfl).symm.trans h
    rw [grant_mem, (noteReports_only _ _).mem, memoryCycleEnd_mem hc, cycleMem, if_pos hwr, settle_mem]
  obtain ⟨hbyte, hchk⟩ := s.mem.read_write c.addr a c.lanes c.data hwf hi
  rw [hmem, hbyte, hchk]
  refine ⟨fun hdriven => ?_, fun hspared => ?_⟩
  · rw [if_pos hdriven, if_pos hdriven]
    exact ⟨rfl, ones_with_checkBit _⟩
  · rw [if_neg hspared, if_neg hspared]
    exact ⟨rfl, rfl⟩

/-! ### The lanes that a reset cuts off (R107, R171) -/

/-- R107: cycle `c` drives lane `i` of word `a`, and the lane holds what a cut-off write may leave there beside the old
byte and check bit. -/
def LaneCut (c : MCycle) (m : Sram) (a : PhysAddr) (i : Nat) : Prop :=
  a = c.addr ∧ c.lanes.getLsbD i = true ∧
    ((m.byte a i = laneByte c.data i ∧ m.chk a i = checkBit (laneByte c.data i)) ∨
      laneInError (m.byte a i) (m.chk a i) = true)

/-- R107: cutting lanes off one after another leaves each lane as it was or cut off. -/
theorem read_cutLanes (k : Nat) (c : MCycle) (a : PhysAddr) {i : Nat} (hi : i < 4) (is : List Nat) (his : ∀ j ∈ is, j < 4)
    {m : Sram} (h : m.wf = true) :
    ((is.foldl (cutLane k c) m).byte a i = m.byte a i ∧ (is.foldl (cutLane k c) m).chk a i = m.chk a i) ∨
      LaneCut c (is.foldl (cutLane k c) m) a i := by
  induction is generalizing m with
  | nil => exact .inl ⟨rfl, rfl⟩
  | cons j rest ih =>
    rw [List.foldl_cons]
    rcases ih (fun n hn => his n (List.mem_cons_of_mem j hn)) (cutLane_wf k c m j h) with ⟨hbyte, hchk⟩ | hcut
    · rcases read_cutLane k c m a h (his j List.mem_cons_self) hi with ⟨hb, hc⟩ | ⟨ha, rfl, hl, hcut⟩
      · exact .inl ⟨hbyte.trans hb, hchk.trans hc⟩
      · refine .inr ⟨ha, hl, ?_⟩
        rw [hbyte, hchk]
        exact hcut
    · exact .inr hcut

/-- R107, R171: a reset cuts off lanes of a write cycle in progress alone. -/
theorem read_cutMem {s : State} (h : s.mem.wf = true) (a : PhysAddr) {i : Nat} (hi : i < 4) :
    ((cutMem s).byte a i = s.mem.byte a i ∧ (cutMem s).chk a i = s.mem.chk a i) ∨
      ∃ c, s.cycle = some c ∧ c.wr = true ∧ LaneCut c (cutMem s) a i := by
  unfold cutMem
  cases hc : s.cycle with
  | none => exact .inl ⟨rfl, rfl⟩
  | some c =>
    cases hwr : c.wr with
    | false => exact .inl ⟨by simp [hwr], by simp [hwr]⟩
    | true =>
      simp only [hwr, if_true]
      exact (read_cutLanes s.freeCtr c a hi [0, 1, 2, 3] (by simp) h).imp_right fun hcut => ⟨c, rfl, hwr, hcut⟩

/-- Settles O7: memory across the fall of RST_N is that of `cutMem`. -/
theorem aResetSparesAllButTheLanesBeingWritten : Obligations.AResetSparesAllButTheLanesBeingWritten := by
  intro s t hwf h a i hi
  obtain rfl : resetFalls (settle s) = t := Host.Outcome.next.inj h
  unfold resetFalls
  split
  · have hcut := read_cutMem (s := settle s) (by rwa [settle_mem]) a hi
    rw [settle_mem] at hcut
    exact hcut.imp_right fun ⟨c, hc, hwr, ha, hlane, hleft⟩ => ⟨c, hc, hwr, ha, hlane, hleft⟩
  · rw [settle_mem]
    exact .inl ⟨rfl, rfl⟩

end Sys2Proof.Machine

/-! SUPPORT. The arbiter (R97 to R100): who wins the search, when a grant is made, and what it changes. -/
namespace Sys2Proof.Machine

/-! ### The search (R98, R99) -/

section Search
variable {s : State} {r q : Requester}

theorem mem_searchOrder (r q : Requester) : q ∈ searchOrder r := by
  rcases r with (_ | _) | _ <;> rcases q with (_ | _) | _ <;> decide

/-- R98, R99: the search goes first to those that take part, then to all that wait. -/
theorem winner_eq (s : State) : winner s =
    (((searchOrder s.lastGranted).filter (waits s)).find? (takesPart s)).or
      ((searchOrder s.lastGranted).filter (waits s)).head? := by
  unfold winner
  split
  · rename_i h
    rw [h]
    rfl
  · rename_i r h
    rw [h, List.find?_singleton]
    split <;> rfl
  · split
    · rename_i h
      rw [h]
      rfl
    · rename_i h
      rw [h]
      rfl

/-- R98: the winner waits. -/
theorem waits_of_winner (h : winner s = some r) : waits s r = true := by
  rw [winner_eq, Option.or_eq_some_iff] at h
  have hmem : r ∈ (searchOrder s.lastGranted).filter (waits s) := by
    rcases h with h | ⟨-, h⟩
    · exact List.mem_of_find?_eq_some h
    · exact List.mem_of_mem_head? h
  exact (List.mem_filter.1 hmem).2

/-- R98: where nobody waits nobody wins. -/
theorem winner_eq_none (h : ∀ q, waits s q = false) : winner s = none := by
  cases hw : winner s with
  | none => rfl
  | some r => exact absurd (waits_of_winner hw) (by simp [h])

/-- R98: where somebody waits somebody wins. -/
theorem exists_winner (h : waits s q = true) : ∃ r, winner s = some r := by
  have hmem : q ∈ (searchOrder s.lastGranted).filter (waits s) :=
    List.mem_filter.2 ⟨mem_searchOrder s.lastGranted q, h⟩
  cases hl : (searchOrder s.lastGranted).filter (waits s) with
  | nil => rw [hl] at hmem; cases hmem
  | cons r rest =>
    rw [winner_eq, hl]
    cases (r :: rest).find? (takesPart s) with
    | some x => exact ⟨x, rfl⟩
    | none => exact ⟨r, rfl⟩

/-- R99: one that was waiting before this event takes part. -/
theorem takesPart_of_has (h : s.requestLines.has q = true) : takesPart s q = true := by
  rw [takesPart, h, Bool.true_or]

/-- R98: where all that wait were waiting before, the first of them in the order of search wins. -/
theorem winner_of_all_before (h : ∀ x, waits s x = true → s.requestLines.has x = true) :
    winner s = (searchOrder s.lastGranted).find? (waits s) := by
  rw [winner_eq, List.find?_filter, List.head?_filter]
  have hboth : (fun x => decide (waits s x = true ∧ takesPart s x = true)) = waits s := by
    funext x
    cases hx : waits s x with
    | false => simp
    | true => simp [takesPart_of_has (h x hx)]
  rw [hboth, Option.or_self]

/-- What a search finds stands before everything else in the list that it would have found. -/
theorem idxOf_le_of_find? {α : Type} [DecidableEq α] {f : α → Bool} {l : List α} {x y : α} (hx : l.find? f = some x)
    (hy : f y = true) : l.idxOf x ≤ l.idxOf y := by
  obtain ⟨hfx, before, after, rfl, hbefore⟩ := List.find?_eq_some_iff_append.1 hx
  have hnot : ∀ z, f z = true → z ∉ before := fun z hz hmem => by
    have := hbefore z hmem
    rw [hz] at this
    cases this
  rw [List.idxOf_append_of_notMem (hnot x hfx), List.idxOf_append_of_notMem (hnot y hy), List.idxOf_cons_self]
  omega

/-- R98, R99: the winner stands before every other that waits and was waiting before. -/
theorem idxOf_winner_le (h : winner s = some r) (hq : waits s q = true) (hb : s.requestLines.has q = true) :
    (searchOrder s.lastGranted).idxOf r ≤ (searchOrder s.lastGranted).idxOf q := by
  have htakes : decide (waits s q = true ∧ takesPart s q = true) = true := decide_eq_true ⟨hq, takesPart_of_has hb⟩
  rw [winner_eq, List.find?_filter, Option.or_eq_some_iff] at h
  rcases h with h | ⟨hnone, -⟩
  · exact idxOf_le_of_find? h htakes
  · exact absurd htakes (List.find?_eq_none.1 hnone q (mem_searchOrder s.lastGranted q))

end Search

/-! ### Whether a grant is made (R98, R168) -/

section Granted
variable {s : State} {r : Requester}

theorem granted_of_free (hr : s.pins.rstN = true) (hc : s.cycle = none) (ho : installOwed s = false) :
    granted s = winner s := by
  rw [granted, hr, hc, ho]
  rfl

/-- R98, R168: no grant is made while a cycle is in progress, in reset, where an install is owed, where nobody waits. -/
theorem granted_eq_none (h : s.cycle ≠ none ∨ s.pins.rstN = false ∨ installOwed s = true ∨ ∀ q, waits s q = false) :
    granted s = none := by
  unfold granted
  split
  · rename_i hfree
    simp only [Bool.and_eq_true, Option.isNone_iff_eq_none, Bool.not_eq_true'] at hfree
    obtain ⟨⟨hrst, hcycle⟩, howed⟩ := hfree
    rcases h with h | h | h | h
    · exact absurd hcycle h
    · exact nomatch hrst.symm.trans h
    · exact nomatch howed.symm.trans h
    · exact winner_eq_none h
  · rfl

theorem onGrant_of_none {α : Type} (h : granted s = none) (d : α) (g : Requester → α) : onGrant s d g = d := by
  rw [onGrant, h]

theorem onGrant_of_some {α : Type} (h : granted s = some r) (d : α) (g : Requester → α) : onGrant s d g = g r := by
  rw [onGrant, h]

/-- What holds where no grant is made and after a grant to each requester holds after the event. -/
theorem onGrant_ind {α : Type} {P : α → Prop} {d : α} {g : Requester → α} (hd : P d) (hg : ∀ r, P (g r)) :
    P (onGrant s d g) := by
  unfold onGrant
  split
  · exact hg _
  · exact hd

end Granted

/-! ### What a grant changes (R97, R98, R161) -/

section Changes
variable (s : State)

theorem grant_cycle : (grant s).cycle = onGrant s s.cycle (cycleFor s) := rfl
theorem grant_ports : (grant s).ports = onGrant s s.ports (portsGranted s) := rfl
theorem grant_lastGranted : (grant s).lastGranted = onGrant s s.lastGranted id := rfl
theorem grant_mirror : (grant s).mirror = onGrant s s.mirror (mirrorAfter s) := rfl
theorem grant_attention : (grant s).attention = onGrant s s.attention (attentionAfter s) := rfl

/-- R161: of an attention state a grant changes the report sequence alone. -/
theorem attentionAfter_get (r : Requester) (p : Port) :
    ∃ n, (attentionAfter s r).get p = { s.attention.get p with repSeq := n } := by
  unfold attentionAfter
  split
  · exact ⟨_, rfl⟩
  · split
    · rename_i f _
      unfold attentionGranted
      split
      · rename_i q _
        by_cases hq : p = q
        · subst hq
          exact ⟨_, Both.get_modify_self _ _ _⟩
        · exact ⟨_, Both.get_modify_of_ne _ hq _⟩
      · exact ⟨_, rfl⟩
    · exact ⟨_, rfl⟩

/-- R98: of a port interface a grant changes the access alone, from TAKEN to IN CYCLE. -/
theorem portsGranted_get (r : Requester) (p : Port) :
    ∃ a, (portsGranted s r).get p = { s.ports.get p with access := a } ∧
      (a = s.access p ∨ ∃ t, s.access p = .taken t ∧ a = .inCycle t) := by
  unfold portsGranted
  split
  · rename_i q
    split
    · rename_i t ht
      by_cases hq : p = q
      · subst hq
        exact ⟨_, Both.get_modify_self _ _ _, .inr ⟨t, ht, rfl⟩⟩
      · exact ⟨_, Both.get_modify_of_ne _ hq _, .inl rfl⟩
    · exact ⟨_, rfl, .inl rfl⟩
  · exact ⟨_, rfl, .inl rfl⟩

theorem grant_attention_get (p : Port) : ∃ n, (grant s).attention.get p = { s.attention.get p with repSeq := n } := by
  rw [grant_attention]
  exact onGrant_ind (P := fun b : Both Attention => ∃ n, b.get p = { s.attention.get p with repSeq := n }) ⟨_, rfl⟩
    fun r => attentionAfter_get s r p

theorem grant_ports_get (p : Port) : ∃ a, (grant s).ports.get p = { s.ports.get p with access := a } ∧
    (a = s.access p ∨ ∃ t, s.access p = .taken t ∧ a = .inCycle t) := by
  rw [grant_ports]
  exact onGrant_ind (P := fun b : Both PortIf => ∃ a, b.get p = { s.ports.get p with access := a } ∧
    (a = s.access p ∨ ∃ t, s.access p = .taken t ∧ a = .inCycle t)) ⟨_, rfl, .inl rfl⟩ fun r => portsGranted_get s r p

end Changes

/-- Settles O8: field by field, and nothing where no grant is made. -/
theorem aGrantChangesOnlyWhatItServes : Obligations.AGrantChangesOnlyWhatItServes := by
  intro w t
  refine ⟨rfl, fun p => ⟨?_, ?_⟩, fun h => ?_⟩
  · obtain ⟨n, hn⟩ := grant_attention_get w p
    have hatt : t.attention.get p = { w.attention.get p with repSeq := n } := hn
    rw [hatt]
    exact ⟨rfl, rfl, rfl, rfl⟩
  · obtain ⟨a, ha, haccess⟩ := grant_ports_get w p
    have hport : t.ports.get p = { w.ports.get p with access := a } := ha
    rw [State.access, hport]
    exact ⟨⟨rfl, rfl, rfl⟩, haccess.imp_right fun ⟨r, hr, ha⟩ => ⟨r, hr, ha⟩⟩
  · have hnone := granted_eq_none h
    exact ⟨onGrant_of_none hnone _ _, onGrant_of_none hnone _ _, onGrant_of_none hnone _ _, onGrant_of_none hnone _ _,
      onGrant_of_none hnone _ _⟩

/-! ### A grant to each requester (R97, R98, R100) -/

section Served
variable {s : State}

/-- R98: a port waits while it is TAKEN with an access that needs a cycle. -/
theorem portWaits_iff {p : Port} : portWaits s p = true ↔ ∃ t a, s.access p = .taken t ∧ t.outcome.phys? = some a := by
  unfold portWaits
  cases s.access p <;> simp [Option.isSome_iff_exists]

/-- R100, R132: the Mirror has work while an item is dirty, or one in flight has cycles left. -/
theorem mirrorWants_iff : mirrorWants s = true ↔
    s.mirror.dirty ≠ [] ∨ ∃ f, s.mirror.flight = some f ∧ f.granted < f.item.cycles := by
  unfold mirrorWants
  cases s.mirror.flight <;> simp

theorem engineWaits_iff : engineWaits s = true ↔ (∃ a, loaderNext s = some a) ∨ s.mirror.dirty ≠ [] ∨
    ∃ f, s.mirror.flight = some f ∧ f.granted < f.item.cycles := by
  rw [engineWaits, Bool.or_eq_true, mirrorWants_iff, Option.isSome_iff_exists]

/-- R100: with the M port free the Loader asks for the next read of its load. -/
theorem loaderNext_of_free (hc : s.cycle = none) {a : PhysAddr} :
    loaderNext s = some a ↔ ∃ l, s.loader = .reading l ∧ l.nextRead = some a := by
  refine ⟨loaderNext_eq_some, fun ⟨l, hl, ha⟩ => ?_⟩
  simp only [loaderNext, hl, hc, ha]

/-- R97, R98: a grant to a port takes it from TAKEN to IN CYCLE with its own cycle, and serves nothing else. -/
theorem grant_to_port {p : Port} (h : granted s = some (.port p)) (hw : portWaits s p = true) :
    ∃ t a, s.access p = .taken t ∧ t.outcome.phys? = some a ∧ (grant s).access p = .inCycle t ∧
      (grant s).cycle = some
        { use := .port p
          addr := a
          wr := t.drive.wr
          lanes := if t.drive.wr then t.drive.lanes else 0xF
          data := if t.drive.wr then t.drive.data else 0 } ∧
      (grant s).access p.other = s.access p.other ∧ (grant s).mirror = s.mirror ∧ (grant s).attention = s.attention := by
  obtain ⟨t, a, ht, ha⟩ := portWaits_iff.1 hw
  have hports : (grant s).ports = (s.setAccess p (.inCycle t)).ports := by
    rw [grant_ports, onGrant_of_some h]
    simp only [portsGranted, ht]
  refine ⟨t, a, ht, ha, ?_, ?_, ?_, ?_, ?_⟩
  · rw [State.access, hports]
    exact State.access_setAccess s p _
  · rw [grant_cycle, onGrant_of_some h]
    simp only [cycleFor, ht, portCycle, ha, Option.map_some]
  · rw [State.access, hports]
    exact State.access_setAccess_other s (Port.other_ne p) _
  · rw [grant_mirror, onGrant_of_some h]
    rfl
  · rw [grant_attention, onGrant_of_some h]
    rfl

/-- R100: a grant to the Engine leaves the ports; it makes the Loader's next read, where there is one, and then leaves the
Mirror and the report sequences too. -/
theorem grant_to_engine (h : granted s = some .engine) : (grant s).ports = s.ports ∧ ∀ a, loaderNext s = some a →
    (grant s).cycle = some { use := .loader, addr := a, wr := false, lanes := 0xF, data := 0 } ∧
      (grant s).mirror = s.mirror ∧ (grant s).attention = s.attention := by
  refine ⟨by rw [grant_ports, onGrant_of_some h]; rfl, fun a ha => ?_⟩
  have hflight : engineFlight s = none := by rw [engineFlight, ha]; rfl
  refine ⟨?_, ?_, ?_⟩
  · rw [grant_cycle, onGrant_of_some h]
    simp only [cycleFor, ha, loaderCycle]
  · rw [grant_mirror, onGrant_of_some h]
    simp only [mirrorAfter, hflight]
  · rw [grant_attention, onGrant_of_some h]
    simp only [attentionAfter, hflight]

end Served

/-- Settles O9: the grant goes to the winner of the search, and then serves it. -/
theorem theRotationGrantsTheFirstWaiting : Obligations.TheRotationGrantsTheFirstWaiting := by
  refine ⟨?_, ⟨rfl, rfl, rfl⟩, fun w => ⟨fun p => portWaits_iff, engineWaits_iff, fun hc a => loaderNext_of_free hc⟩⟩
  intro w hrst hcycle howed order r
  have hgranted : granted w = winner w := granted_of_free hrst hcycle howed
  have hlast : ∀ {x}, winner w = some x → r = x := fun hx => onGrant_of_some (hgranted.trans hx) _ _
  refine ⟨fun q hq halone => ?_, fun q hall hfirst => ?_, fun ⟨q, hq⟩ => ?_⟩
  · obtain ⟨x, hx⟩ := exists_winner hq
    exact (hlast hx).trans (halone x (waits_of_winner hx))
  · exact hlast ((winner_of_all_before hall).trans hfirst)
  · obtain ⟨x, hx⟩ := exists_winner hq
    have hwins : winner w = some r := hx.trans (congrArg some (hlast hx).symm)
    have hwaits := waits_of_winner hwins
    refine ⟨hwaits, fun y hy hbefore => idxOf_winner_le hwins hy hbefore, fun p hp => ?_, fun he => ?_⟩
    · rw [hp] at hwins hwaits
      exact grant_to_port (hgranted.trans hwins) hwaits
    · rw [he] at hwins
      exact grant_to_engine (hgranted.trans hwins)

end Sys2Proof.Machine

/-! SUPPORT. Arrivals that are held or ignored (R92, R94, R95, R168), and the fall of REQ (R93, R94). -/
namespace Sys2Proof.Machine

/-- R157: an event that changes none of what the pending sets are made of marks no report word. -/
theorem noteReports_of_fields {b s : State} (ha : s.attention = b.attention) (hp : s.partState = b.partState)
    (hc : s.channels = b.channels) (hj : s.journals = b.journals) : noteReports b s = s :=
  noteReports_of_same (pendingSet_of_fields ha hp hc hj)

/-- R94: while RST_N is low or REQ is high already, only what the processor drives changes. -/
theorem present_of_ignored {s : State} {p : Port} (h : s.pins.rstN = false ∨ (s.ports.get p).req = true) (d : Drive) :
    present p d s = drivePort p d s := by
  have hfalse : (s.pins.rstN && !(s.ports.get p).req) = false := by
    rcases h with h | h <;> simp [h]
  rw [present, hfalse]
  rfl

/-- R95: an access that arrives at an IDLE port while the Loader is DRAINING is held. -/
theorem present_of_draining {s : State} {p : Port} (hr : s.pins.rstN = true) (hq : (s.ports.get p).req = false)
    (ha : s.access p = .idle) (hd : s.draining = true) (d : Drive) :
    present p d s = (drivePort p d s).setAccess p (.deferred d) := by
  have hdrain : (drivePort p d s).draining = true := hd
  simp [present, arriveIfRequested, arrive, hr, hq, ha, hdrain]

/-- Settles O13: the arrival is held, or ignored; no pending set changes. -/
theorem anArrivalIsHeldInADrainAndIgnoredInReset : Obligations.AnArrivalIsHeldInADrainAndIgnoredInReset := by
  intro s i p d u hi
  have hexec : exec i s = .next (grant (noteReports u (present p d u))) :=
    (everyPortCommandPresentsItsAccess i p d s hi).trans (exec_portAccessTake p d s)
  rw [hexec]
  refine ⟨fun hr hq ha hd => ?_, fun h => ?_⟩
  · rw [present_of_draining hr hq ha hd, noteReports_of_fields (by rfl) (by rfl) (by rfl) (by rfl)]
  · rw [present_of_ignored h, noteReports_of_fields (by rfl) (by rfl) (by rfl) (by rfl)]

theorem exec_reqFall (p : Port) (s : State) :
    exec (.reqFall p) s = .next (grant (noteReports (settle s) (dropReq p (settle s)))) := rfl

/-- Settles O14: the access of the port goes where the fall of REQ sends it; no pending set changes. -/
theorem aFallOfReqReleasesThePort : Obligations.AFallOfReqReleasesThePort := by
  intro s p u hreq
  have hdrop : dropReq p u = { u with ports := u.ports.modify p fun q =>
      { q with req := false, access := (u.access p).afterReqFall } } := by
    rw [dropReq, if_pos hreq]
    cases p <;> rfl
  rw [exec_reqFall, hdrop, noteReports_of_fields (by rfl) (by rfl) (by rfl) (by rfl)]
  cases u.access p <;> rfl

end Sys2Proof.Machine

/-! SUPPORT. The table reads of a load (R110, R114), the COMMIT record (R129, R180), and a load that fails (R106, R113, R116,
R121). -/
namespace Sys2Proof.Machine

/-! ### The reads of a load (R110, R114) -/

theorem tableAddr_region {k : Nat} (h : k < 64) : tableAddr (1 + k) = 0x040 + k := by
  unfold tableAddr
  rw [if_neg (by omega), if_pos (by omega)]
  omega

theorem tableAddr_chan {k : Nat} (h : k < 192) : tableAddr (65 + k) = 0x080 + k := by
  unfold tableAddr
  rw [if_neg (by omega), if_neg (by omega), if_pos (by omega)]
  omega

theorem tableAddr_group (k : Nat) : tableAddr (257 + k) = 0x140 + k := by
  unfold tableAddr
  rw [if_neg (by omega), if_neg (by omega), if_neg (by omega)]
  omega

/-- R114: the table reads in their order: the parameter word, the regions, the channels, the groups. -/
theorem map_tableAddr_range : (List.range 353).map tableAddr = [0x010] ++ (List.range 0x40).map (0x040 + ·) ++
    (List.range 0xC0).map (0x080 + ·) ++ (List.range 0x60).map (0x140 + ·) := by
  have hparts : List.range 353 = List.range 1 ++ (List.range 0x40).map (1 + ·) ++ (List.range 0xC0).map (65 + ·) ++
      (List.range 0x60).map (257 + ·) := by
    rw [← List.range_add, ← List.range_add, ← List.range_add]
  have hregion : ((List.range 0x40).map (1 + ·)).map tableAddr = (List.range 0x40).map (0x040 + ·) :=
    List.map_map.trans (List.map_congr_left fun k hk => tableAddr_region (List.mem_range.1 hk))
  have hchan : ((List.range 0xC0).map (65 + ·)).map tableAddr = (List.range 0xC0).map (0x080 + ·) :=
    List.map_map.trans (List.map_congr_left fun k hk => tableAddr_chan (List.mem_range.1 hk))
  have hgroup : ((List.range 0x60).map (257 + ·)).map tableAddr = (List.range 0x60).map (0x140 + ·) :=
    List.map_map.trans (List.map_congr_left fun k _ => tableAddr_group k)
  rw [hparts, List.map_append, List.map_append, List.map_append, hregion, hchan, hgroup]
  rfl

/-- R114: no table word is read twice. -/
theorem tableAddr_inj {j k : Nat} (hj : j < 353) (hk : k < 353) (h : tableAddr j = tableAddr k) : j = k := by
  unfold tableAddr at h
  split_ifs at h <;> omega

/-- R110: `w` is what the load has read at control word `a`, if that is one of its table words. -/
def Load.ReadAt (l : Load) (a : Nat) (w : Word) : Prop := ∀ k, k < 353 → tableAddr k = a → l.words.getD k 0 = w

theorem Load.readAt_tableAddr (l : Load) {j : Nat} (hj : j < 353) : l.ReadAt (tableAddr j) (l.word j) := by
  intro k hk h
  rw [tableAddr_inj hk hj h]
  rfl

/-- R110: word `j` of region entry `n`. -/
theorem Load.readAt_region (l : Load) {n j : Nat} (hn : n < 16) (hj : j < 4) :
    l.ReadAt (0x040 + j + 4 * n) (l.word (1 + j + 4 * n)) := by
  rw [Nat.add_assoc, Nat.add_assoc, ← tableAddr_region (by omega)]
  exact l.readAt_tableAddr (by omega)

/-- R110: word `j` of channel descriptor `n`. -/
theorem Load.readAt_chan (l : Load) {n j : Nat} (hn : n < 24) (hj : j < 8) :
    l.ReadAt (0x080 + j + 8 * n) (l.word (65 + j + 8 * n)) := by
  rw [Nat.add_assoc, Nat.add_assoc, ← tableAddr_chan (by omega)]
  exact l.readAt_tableAddr (by omega)

/-- R110: word `j` of group descriptor `n`. -/
theorem Load.readAt_group (l : Load) {n j : Nat} (hn : n < 24) (hj : j < 4) :
    l.ReadAt (0x140 + j + 4 * n) (l.word (257 + j + 4 * n)) := by
  rw [Nat.add_assoc, Nat.add_assoc, ← tableAddr_group]
  exact l.readAt_tableAddr (by omega)

/-- R110: the words of the parameter word and of every entry are those read at its addresses. -/
theorem Load.readAt_entries (l : Load) : l.ReadAt 0x010 l.param ∧
    (∀ n, n < 16 → l.ReadAt (0x040 + 4 * n) (l.region n).w0 ∧ l.ReadAt (0x041 + 4 * n) (l.region n).w1 ∧
      l.ReadAt (0x042 + 4 * n) (l.region n).w2 ∧ l.ReadAt (0x043 + 4 * n) (l.region n).w3) ∧
    (∀ n, n < 24 → l.ReadAt (0x080 + 8 * n) (l.chan n).w0 ∧ l.ReadAt (0x081 + 8 * n) (l.chan n).w1 ∧
      l.ReadAt (0x082 + 8 * n) (l.chan n).w2 ∧ l.ReadAt (0x083 + 8 * n) (l.chan n).w3 ∧
      l.ReadAt (0x084 + 8 * n) (l.chan n).w4 ∧ l.ReadAt (0x085 + 8 * n) (l.chan n).w5 ∧
      l.ReadAt (0x086 + 8 * n) (l.chan n).w6 ∧ l.ReadAt (0x087 + 8 * n) (l.chan n).w7) ∧
    (∀ n, n < 24 → l.ReadAt (0x140 + 4 * n) (l.group n).w0 ∧ l.ReadAt (0x141 + 4 * n) (l.group n).w1 ∧
      l.ReadAt (0x142 + 4 * n) (l.group n).w2 ∧ l.ReadAt (0x143 + 4 * n) (l.group n).w3) := by
  refine ⟨l.readAt_tableAddr (j := 0) (by decide), fun n hn => ?_, fun n hn => ?_, fun n hn => ?_⟩
  · have h := fun j hj => l.readAt_region (j := j) hn hj
    exact ⟨h 0 (by decide), h 1 (by decide), h 2 (by decide), h 3 (by decide)⟩
  · have h := fun j hj => l.readAt_chan (j := j) hn hj
    exact ⟨h 0 (by decide), h 1 (by decide), h 2 (by decide), h 3 (by decide), h 4 (by decide), h 5 (by decide),
      h 6 (by decide), h 7 (by decide)⟩
  · have h := fun j hj => l.readAt_group (j := j) hn hj
    exact ⟨h 0 (by decide), h 1 (by decide), h 2 (by decide), h 3 (by decide)⟩

/-- R114: the address of the next table read. -/
theorem Load.nextRead_of_table {l : Load} (h : l.words.length < 353) :
    l.nextRead = some (BitVec.ofNat 17 (tableAddr l.words.length)) := if_pos h

/-- 10.3: the table of a control word, by its address. -/
theorem tableOf_spec (a : Nat) : (a = 0x010 → tableOf a = .parameter) ∧ (0x040 ≤ a → a ≤ 0x07F → tableOf a = .region) ∧
    (0x080 ≤ a → a ≤ 0x13F → tableOf a = .channel) ∧ (0x140 ≤ a → a ≤ 0x19F → tableOf a = .group) := by
  unfold tableOf
  refine ⟨fun h => ?_, fun h _ => ?_, fun h _ => ?_, fun h _ => ?_⟩
  · rw [if_pos (by omega)]
  · rw [if_neg (by omega), if_pos (by omega)]
  · rw [if_neg (by omega), if_neg (by omega), if_pos (by omega)]
  · rw [if_neg (by omega), if_neg (by omega), if_neg (by omega)]

/-! ### The COMMIT record (R129, R180) -/

theorem commitRecord_fields (r : LoadResult) (start now : Word) : ∃ (flags : BitVec 12) (arg : Word),
    commitRecord r start now = mkRecord .commit 0 none flags arg start now ∧
    flags.extractLsb' 0 8 = r.code.code ∧ flags.extractLsb' 8 4 = 0 ∧ arg.extractLsb' 0 16 = r.gen ∧
    arg.extractLsb' 16 12 = r.detail.index ∧ arg.extractLsb' 28 3 = r.detail.table.code ∧ arg.getLsbD 31 = false := by
  have hflags : (0#4 ++ r.code.code : BitVec (4 + 8)).extractLsb' 0 8 = r.code.code ∧
      (0#4 ++ r.code.code : BitVec (4 + 8)).extractLsb' 8 4 = 0 :=
    ⟨BitVec.extractLsb'_append_eq_right, BitVec.extractLsb'_append_eq_left⟩
  have harg : ∀ (t : BitVec 3) (n : BitVec 12) (g : BitVec 16),
      let arg : Word := (0#1 ++ (t ++ n : BitVec (3 + 12)) ++ g : BitVec (1 + 15 + 16))
      arg.extractLsb' 0 16 = g ∧ arg.extractLsb' 16 12 = n ∧ arg.extractLsb' 28 3 = t ∧ arg.getLsbD 31 = false := by
    intro t n g
    refine ⟨BitVec.extractLsb'_append_eq_right, ?_, ?_, ?_⟩
    · exact (BitVec.extractLsb'_append_eq_of_le (by decide)).trans
        ((BitVec.extractLsb'_append_eq_of_add_le (by decide)).trans BitVec.extractLsb'_append_eq_right)
    · exact (BitVec.extractLsb'_append_eq_of_le (by decide)).trans
        ((BitVec.extractLsb'_append_eq_of_add_le (by decide)).trans BitVec.extractLsb'_append_eq_left)
    · rw [BitVec.getLsbD_append, BitVec.getLsbD_append]
      rfl
  obtain ⟨hcode, hrest⟩ := hflags
  obtain ⟨hgen, hindex, htable, hhigh⟩ := harg r.detail.table.code r.detail.index r.gen
  exact ⟨_, _, rfl, hcode, hrest, hgen, hindex, htable, hhigh⟩

/-! ### A load that fails (R113, R121) -/

theorem tells_raiseBoth (s : State) (k : Cause) : Tells s (s.raiseBoth k) (fun _ => []) (fun _ => k.bit) [] :=
  ((tells_raise s .A k).trans (tells_raise _ .B k)).congr (fun _ => rfl) (fun p => by cases p <;> simp [onlyTo])
    fun _ => Iff.rfl

/-- R121, R129: what the report of a load's end tells, with its marks of B2 and B3. -/
theorem tells_reportLoadEnd (l : Load) (c : ResultCode) (d : Detail) (s : State) :
    Tells s (reportLoadEnd l c d s) (fun _ => [commitRecord { gen := l.gen, code := c, detail := d } l.start s.clock])
      (fun _ => Cause.commit.bit) [.part 2, .part 3] := by
  have hresult : Tells s { s with lastResult := { gen := l.gen, code := c, detail := d } } (fun _ => []) (fun _ => 0) [] :=
    .of_marks rfl rfl rfl (Marks.of_mirror rfl)
  have hparts := (hresult.trans (tells_mark _ (.part 2))).trans (tells_mark _ (.part 3))
  exact ((hparts.trans (tells_offerBoth _ _)).trans (tells_raiseBoth _ .commit)).congr (fun _ => by simp)
    (fun _ => by simp) fun _ => by simp

theorem tells_continueLoader (s : State) : Tells s (continueLoader s) (fun _ => []) (fun _ => 0) [.part 1] := by
  have hloader : Tells s { s with loader := s.nextLoader, remembered := none } (fun _ => []) (fun _ => 0) [] :=
    .of_marks rfl rfl rfl (Marks.of_mirror rfl)
  rw [continueLoader_eq]
  exact hloader.trans (tells_mark _ (.part 1))

section Failing
variable (l : Load) (c : ResultCode) (d : Detail) (s : State)

theorem tells_failLoad :
    Tells s (failLoad l c d s) (fun _ => [commitRecord { gen := l.gen, code := c, detail := d } l.start s.clock])
      (fun _ => Cause.commit.bit) [.part 2, .part 3, .part 1] :=
  ((tells_reportLoadEnd l c d s).trans (tells_continueLoader _)).congr (fun _ => rfl) (fun _ => by simp) fun _ => Iff.rfl

/-- R121: "the map and every runtime record stay". -/
theorem failLoad_eq : failLoad l c d s = { s with
    lastResult := { gen := l.gen, code := c, detail := d }
    loader := s.nextLoader
    remembered := none
    journals := (failLoad l c d s).journals
    attention := (failLoad l c d s).attention
    mirror := (failLoad l c d s).mirror } := by
  obtain ⟨hports, hnext, hresult⟩ := reportLoadEnd_fields l s c d
  obtain ⟨hports', hloader', hremembered', hresult'⟩ := continueLoader_fields (reportLoadEnd l c d s)
  have hgroups : (failLoad l c d s).groups = s.groups :=
    (groups_continueLoader _).trans (groups_reportLoadEnd l c d s)
  have heq := (failLoad_only l c d s).eq
  rwa [hgroups, channels_failLoad, show (failLoad l c d s).ports = s.ports from hports'.trans hports,
    show (failLoad l c d s).loader = s.nextLoader from hloader'.trans hnext,
    show (failLoad l c d s).remembered = none from hremembered',
    show (failLoad l c d s).lastResult = { gen := l.gen, code := c, detail := d } from hresult'.trans hresult] at heq

end Failing

/-- R113, R121: a load that fails at the end of a Loader cycle, with the report words that it changes. -/
theorem loadFailed_failLoad (u : State) (l : Load) (c : ResultCode) (d : Detail) :
    LoadFailed u (noteReports u (failLoad l c d { u with cycle := none })) { gen := l.gen, code := c, detail := d }
      l.start := by
  let x : State := { u with cycle := none }
  have hfree : Tells u x (fun _ => []) (fun _ => 0) [] := .of_marks rfl rfl rfl (Marks.of_mirror rfl)
  let rs : List Record := [commitRecord { gen := l.gen, code := c, detail := d } l.start u.clock]
  have htells : Tells u (failLoad l c d x) (fun _ => rs) (fun _ => Cause.commit.bit) [.part 2, .part 3, .part 1] :=
    (hfree.trans (tells_failLoad l c d x)).congr (fun _ => rfl) (fun _ => by simp) fun _ => Iff.rfl
  have hfields := failLoad_eq l c d x
  generalize failLoad l c d x = e at htells hfields
  have hjournals : e.journals = { a := offers u.clock u.journals.a rs, b := offers u.clock u.journals.b rs } :=
    Both.ext_get fun p => by
      rw [htells.journal]
      cases p <;> rfl
  have hattention : e.attention = { a := u.attention.a.told Cause.commit.bit u.clock u.journals.a rs
                                    b := u.attention.b.told Cause.commit.bit u.clock u.journals.b rs } :=
    Both.ext_get fun p => by
      rw [htells.attention]
      cases p <;> rfl
  rw [hjournals, hattention] at hfields
  refine ⟨?_, ?_⟩
  · rw [noteReports_eq]
    exact congrArg (fun z : State => { z with mirror := (noteReports u e).mirror }) hfields
  · rw [changedReports_noteReports]
    refine (htells.marks.trans (marks_noteReports u e)).congr fun i => ?_
    simp only [List.mem_append, List.mem_cons]
    tauto

/-! ### A table read (R106, R114, R116) -/

theorem memoryCycleEnd_of_loader {s : State} {c : MCycle} {l : Load} (hc : s.cycle = some c) (hu : c.use = .loader)
    (hl : s.loader = .reading l) (hk : l.words.length < 353) : memoryCycleEnd s =
      tableReadDone l (cycleWord s.mem c) (cycleErrors s.mem c) (s.cycleEnded c) := by
  have hload : (s.cycleEnded c).loader = .reading l := hl
  calc memoryCycleEnd s
    _ = loaderReadDone (cycleWord s.mem c) (cycleErrors s.mem c) (s.cycleEnded c) := by
      simp only [memoryCycleEnd, hc, hu, State.cycleEnded]
    _ = tableReadDone l (cycleWord s.mem c) (cycleErrors s.mem c) (s.cycleEnded c) := by
      simp only [loaderReadDone, hload]
      exact if_pos hk

/-- R97: the end of a read cycle frees the M port and leaves memory. -/
theorem cycleEnded_of_read {s : State} {c : MCycle} (h : c.wr = false) : s.cycleEnded c = { s with cycle := none } := by
  simp [State.cycleEnded, cycleMem, h]

/-- R114: a table word that passes its check, not the last, is kept. -/
theorem tableReadDone_of_kept {l : Load} (h : l.words.length + 1 < 353) (w : Word) (s : State) :
    tableReadDone l w 0 s = { s with loader := .reading { l with words := l.words ++ [w] } } := by
  unfold tableReadDone
  rw [if_neg (by simp)]
  exact if_pos (by rw [List.length_append]; exact h)

/-- R106, R116: a table word in error ends the load, with its table and its address as the detail. -/
theorem tableReadDone_of_error {l : Load} (hk : l.words.length < 353) {errs : Lanes} (h : errs ≠ 0) (w : Word)
    (s : State) : tableReadDone l w errs s =
      failLoad { l with firstFail := some (ctl (tableAddr l.words.length)) } .parity
        { table := tableOf (tableAddr l.words.length), index := BitVec.ofNat 12 (tableAddr l.words.length) } s := by
  have hlt : tableAddr l.words.length < 0x1000 := tableAddr_lt hk
  have hnat : (ctl (tableAddr l.words.length)).toNat = tableAddr l.words.length := by
    rw [ctl, BitVec.toNat_ofNat]
    exact Nat.mod_eq_of_lt (by omega)
  have hindex : (ctl (tableAddr l.words.length)).setWidth 12 = BitVec.ofNat 12 (tableAddr l.words.length) :=
    BitVec.setWidth_ofNat_of_le (by decide) _
  unfold tableReadDone
  rw [if_pos h]
  simp only [parityDetail, hnat, hindex]

/-- Settles O36: the order of the reads, the words of the entries, the COMMIT record, and a table read that is kept or ends
the load. -/
theorem aTableReadIsKeptOrEndsTheLoad : Obligations.ATableReadIsKeptOrEndsTheLoad := by
  refine ⟨map_tableAddr_range, fun l h => l.nextRead_of_table h, tableOf_spec, fun l => l.readAt_entries,
    fun r start now => ?_, ?_⟩
  · obtain ⟨flags, arg, hrec, hcode, hrest, hgen, hindex, htable, hhigh⟩ := commitRecord_fields r start now
    exact ⟨flags, arg, hrec, hcode.trans (by cases r.code <;> rfl), hrest, hgen, hindex,
      htable.trans (by cases r.detail.table <;> rfl), hhigh⟩
  · intro s c l u r hc huse hwr hl hk
    have hend : memoryCycleEnd u = tableReadDone l (u.mem.word c.addr) (u.mem.errors c.addr) { u with cycle := none } := by
      rw [memoryCycleEnd_of_loader hc huse hl hk, cycleEnded_of_read hwr, cycleWord, cycleErrors, hwr]
      rfl
    rw [exec_memoryCycleEnd (u := u) rfl, hend]
    refine ⟨fun hlast hpass => ?_, fun herr => ⟨_, rfl, ?_⟩⟩
    · rw [hpass, tableReadDone_of_kept hlast, noteReports_of_fields (by rfl) (by rfl) (by rfl) (by rfl)]
    · rw [tableReadDone_of_error hk herr]
      exact loadFailed_failLoad u { l with firstFail := some (ctl (tableAddr l.words.length)) } .parity _

end Sys2Proof.Machine

/-! SUPPORT. The take of a commit request (R80, R112). -/
namespace Sys2Proof.Machine

/-- R80: a full-lane write to COMMIT by the configuring port reaches the Loader. -/
theorem decodeAndAct_commit (v : Word) (s : State) : decodeAndAct s.configPort (triggerDrive .commit v) s =
    (takeCommit v s, .control (.trigger .commit) true 0x008) := by
  have hallowed : decodeControl s s.configPort (triggerDrive .commit v) 8 =
      .control (.trigger .commit) true 0x008 := if_pos rfl
  calc decodeAndAct s.configPort (triggerDrive .commit v) s
    _ = (actOnTake s.configPort (triggerDrive .commit v) 0 (decodeControl s s.configPort (triggerDrive .commit v) 8) s,
        decodeControl s s.configPort (triggerDrive .commit v) 8) := rfl
    _ = (takeCommit v s, .control (.trigger .commit) true 0x008) := by rw [hallowed]; rfl

/-- R112: in HOLDOVER, and for generation 0, a commit request is ignored. -/
theorem takeCommit_of_ignored {v : Word} {s : State} (h : s.partState = .holdover ∨ commitGen v = 0) :
    takeCommit v s = s := if_pos h

/-- R112: with the Loader IDLE a commit request starts READING. -/
theorem takeCommit_of_idle {v : Word} {s : State} (hp : s.partState ≠ .holdover) (hg : commitGen v ≠ 0)
    (hl : s.loader = .idle) :
    takeCommit v s = { s with loader := .reading (newLoad (commitGen v) s.clock) }.mark (.part 1) := by
  unfold takeCommit
  rw [if_neg (not_or.2 ⟨hp, hg⟩), hl]

/-- R112: while the Loader is READING a commit request becomes the remembered one. -/
theorem takeCommit_of_reading {v : Word} {s : State} (hp : s.partState ≠ .holdover) (hg : commitGen v ≠ 0) {l : Load}
    (hl : s.loader = .reading l) : takeCommit v s = { s with remembered := some (commitGen v) }.mark (.part 1) := by
  unfold takeCommit
  rw [if_neg (not_or.2 ⟨hp, hg⟩), hl]

/-- The event of a commit request that is taken: the Loader's part of it, then the port (R92), the report words (R157) and
the grant. -/
theorem exec_commitRequest {s u : State} {v : Word} (hu : u = settle s) (ht : Takes u u.configPort) :
    exec (.commitRequest u.configPort v) s = .next (grant (noteReports u
      ((takeCommit v (drivePort u.configPort (triggerDrive .commit v) u)).setAccess u.configPort
        (.taken { drive := triggerDrive .commit v, outcome := .control (.trigger .commit) true 0x008
                  err := false, withdrawn := false })))) := by
  have htake := take_of_allowed
    (decodeAndAct_commit v (drivePort u.configPort (triggerDrive .commit v) u)) rfl
  rw [drivePort_configPort] at htake
  rw [← htake, ← present_of_takes ht, hu]
  rfl

/-- Settles O25: by what the part and the Loader are at the take. -/
theorem aCommitRequestStartsOrIsRemembered : Obligations.ACommitRequestStartsOrIsRemembered := by
  intro s v u p d x gen ht
  have hu : u = settle s := rfl
  clear_value u
  rw [show exec (.commitRequest p v) s = _ from exec_commitRequest hu ht]
  refine ⟨fun hignored => ?_, fun hp hg hl => ?_, fun l hp hg hl => ?_⟩
  · rw [takeCommit_of_ignored (s := drivePort p d u) hignored]
    exact congrArg (fun w => Host.Outcome.next (grant w)) (noteReports_taking u p d _ _)
  · rw [takeCommit_of_idle (s := drivePort p d u) hp hg hl, noteReports_of_fields (by rfl) (by rfl) (by rfl) (by rfl)]
    exact ⟨_, rfl, rfl, marks_mark u (.part 1)⟩
  · rw [takeCommit_of_reading (s := drivePort p d u) hp hg hl, noteReports_of_fields (by rfl) (by rfl) (by rfl) (by rfl)]
    exact ⟨_, rfl, rfl, marks_mark u (.part 1)⟩

end Sys2Proof.Machine

/-! SUPPORT. The end of a Mirror cycle (R132, R143, R144, R163). -/
namespace Sys2Proof.Machine

/-- R163: the line shows whether a reported cause is enabled. -/
theorem lineFor_causeBits (w : Word) (e : BitVec 12) :
    lineFor (causeBits w) e = decide (∃ n : Fin 12, w.getLsbD n = true ∧ e.getLsbD n = true) := by
  have hbit : ∀ n : Nat, (causeBits w &&& e).getLsbD n = (decide (n < 12) && w.getLsbD n && e.getLsbD n) := fun n => by
    simp [causeBits]
  rw [lineFor, Bool.eq_iff_iff, bne_iff_ne, decide_eq_true_iff]
  refine ⟨fun hne => ?_, fun ⟨n, hw, he⟩ hzero => ?_⟩
  · by_contra hno
    refine hne (BitVec.eq_of_getLsbD_eq fun n hn => ?_)
    have hnot : ¬ (w.getLsbD n = true ∧ e.getLsbD n = true) := fun h => hno ⟨⟨n, hn⟩, h⟩
    rw [hbit]
    simpa [hn] using hnot
  · have h := hbit n
    rw [hzero, hw, he, decide_eq_true n.isLt] at h
    simp at h

section Landing
variable {s t : State} {f : Flight}

/-- R132: an item that lands waits afterwards exactly if it waited before: dirty, or marked changed while in flight. -/
theorem marked_landFlight (hf : s.mirror.flight = some f) (ht : t.mirror = landFlight f s.mirror) (i : MirrorItem) :
    Marked t i ↔ Marked s i := by
  have hdirty : i ∈ t.mirror.dirty ↔ i ∈ s.mirror.dirty ∨ (f.item = i ∧ f.changed = true) := by
    rw [ht]
    change i ∈ (if f.changed = true then insertItem f.item s.mirror.dirty else s.mirror.dirty) ↔ _
    split
    · rename_i hc
      rw [mem_insertItem, hc, eq_comm]
      tauto
    · rename_i hc
      simp [hc]
  have hflight : t.mirror.flight = none := by rw [ht]; rfl
  unfold Marked
  rw [hdirty, hflight, hf]
  simp

/-- R143, R144, R163: what the completion of an item changes in the blocks, beside marks. -/
theorem itemCompleted_eq (f : Flight) (s : State) : itemCompleted f s = { s with
    journals := (itemCompleted f s).journals
    attention := (itemCompleted f s).attention
    mirror := (itemCompleted f s).mirror } := by
  unfold itemCompleted
  split <;> rfl

/-- R143: the completion of a slot marks the head word of its journal, that of another item marks nothing. -/
theorem marks_itemCompleted (f : Flight) (s : State) : Marks s (itemCompleted f s) (match f.item with
    | .slot p _ => [.head p]
    | _ => []) := by
  unfold itemCompleted
  cases f.item with
  | slot p k => exact (Marks.of_mirror rfl : Marks s _ []).trans (marks_mark _ (.head p))
  | _ => exact Marks.of_mirror rfl

/-- R132, R134: the end of an item's last cycle leaves no item in flight, and the update counts as they were. -/
theorem flight_of_landed (hs : s.mirror.flight = none) (hk : SequencesKept s t) :
    t.mirror.flight = none ∧ ∀ i, t.mirror.count i = s.mirror.count i := by
  obtain ⟨hchan, hgroup, hflight⟩ := hk
  refine ⟨Option.map_eq_none_iff.1 (hflight.trans (by rw [hs]; rfl)), fun i => ?_⟩
  unfold Mirror.count
  rw [hchan, hgroup]

theorem memoryCycleEnd_of_mirror {c : MCycle} (hc : s.cycle = some c) (hu : c.use = .mirror) :
    memoryCycleEnd s = mirrorCycleDone (s.cycleEnded c) := by
  simp only [memoryCycleEnd, hc, hu, State.cycleEnded]

theorem mirrorCycleDone_of_earlier (hf : s.mirror.flight = some f) (h : f.granted < f.item.cycles) :
    mirrorCycleDone s = s := by
  simp only [mirrorCycleDone, hf, if_pos h]

theorem mirrorCycleDone_of_last (hf : s.mirror.flight = some f) (h : f.item.cycles ≤ f.granted) :
    mirrorCycleDone s = itemCompleted f { s with mirror := landFlight f s.mirror } := by
  simp only [mirrorCycleDone, hf, if_neg (Nat.not_lt.2 h)]

theorem cycleEnded_of_write {c : MCycle} (h : c.wr = true) (s : State) :
    s.cycleEnded c = { s with cycle := none, mem := s.mem.write c.addr c.lanes c.data } := by
  rw [State.cycleEnded, cycleMem, if_pos h]

end Landing

/-- Settles O35: an earlier cycle of the item, and its last. -/
theorem aMirrorItemCompletes : Obligations.AMirrorItemCompletes := by
  intro s c f u hc huse hwr hf
  have hu : u = settle s := rfl
  clear_value u
  rw [exec_memoryCycleEnd hu, memoryCycleEnd_of_mirror hc huse, cycleEnded_of_write hwr]
  let x : State := { u with cycle := none, mem := u.mem.write c.addr c.lanes c.data }
  refine ⟨fun h => ?_, fun h => ?_⟩
  · rw [mirrorCycleDone_of_earlier (s := x) hf h, noteReports_of_fields (by rfl) (by rfl) (by rfl) (by rfl)]
  · let y : State := { x with mirror := landFlight f u.mirror }
    rw [mirrorCycleDone_of_last (s := x) hf h]
    change ∃ w, Host.Outcome.next (grant (noteReports u (itemCompleted f y))) = .next (grant w) ∧ _
    have hdone := marks_itemCompleted f y
    have hnote := marks_noteReports u (itemCompleted f y)
    obtain ⟨hflight, hcount⟩ := flight_of_landed (s := y) rfl (hdone.2.trans hnote.2)
    refine ⟨_, rfl, hflight, ?_, hcount, fun i => ?_⟩
    · refine (noteReports_eq u _).trans ?_
      rw [itemCompleted_eq f y]
      unfold itemCompleted
      cases f.item with
      | report p => simp only [lineFor_causeBits]; rfl
      | _ => rfl
    · have hmarked := (hdone.1 i).trans (or_congr_left (marked_landFlight hf rfl i))
      rw [changedReports_noteReports, hnote.1, hmarked, or_assoc]
      exact or_congr_right List.mem_append.symm

end Sys2Proof.Machine

/-! SUPPORT. What the start of holdover tells the two processors (R172 to R175): its record, those of the passes aborted, that of
the load abandoned, with the marks they bring. -/
namespace Sys2Proof.Machine

/-! ### A loop that tells -/

/-- A loop each of whose turns offers its records and marks its items; `I` holds of what is still to come. -/
theorem Tells.foldl {β : Type} {f : State → β → State} {rs : β → Port → List Record} {is : β → List MirrorItem}
    {I : List β → State → Prop}
    (step : ∀ b bs u, I (b :: bs) u → Tells u (f u b) (rs b) (fun _ => 0) (is b) ∧ I bs (f u b)) :
    ∀ bs s, I bs s → Tells s (bs.foldl f s) (fun p => bs.flatMap (rs · p)) (fun _ => 0) (bs.flatMap is)
  | [], s, _ => tells_refl s
  | b :: bs, s, hs => by
    obtain ⟨hb, hrest⟩ := step b bs s hs
    exact (hb.trans (Tells.foldl step bs _ hrest)).congr (fun _ => by simp) (fun _ => rfl) fun _ => by simp

/-- What the places give of which `P` holds. -/
theorem flatMap_ite_eq {α β : Type} (P : α → Bool) (g : α → β) (xs : List α) :
    xs.flatMap (fun x => if P x then [g x] else []) = (xs.filter P).map g := by
  induction xs with
  | nil => rfl
  | cons x xs ih =>
    rw [List.flatMap_cons, ih, List.filter_cons]
    cases P x <;> rfl

/-! ### The passes aborted (R173 step 1) -/

/-- R175: the record for port `p`'s journal of the pass aborted in channel `n`. -/
def abortedRecord (s : State) (p : Port) (n : Nat) : Option Record :=
  match s.channel? n with
  | some c =>
    match c.pass with
    | some q => if c.desc.producer = p then some (abortedPassRecord n q false true s.clock) else none
    | none => none
  | none => none

/-- A fill pass is open in channel `n`. -/
def State.passOpen (s : State) (n : Nat) : Bool := ((s.channel? n).bind (·.pass)).isSome

/-- R173, R175: the abort of channel `n`'s pass tells its producer. -/
theorem tells_abortPass (s : State) (n : Nat) : Tells s (abortPass s n) (fun p => (abortedRecord s p n).toList)
    (fun _ => 0) (if s.passOpen n then [.chanBlock n] else []) := by
  unfold abortPass abortedRecord State.passOpen
  cases s.channel? n with
  | none => exact tells_refl s
  | some c =>
    obtain hp | ⟨q, hp⟩ := Option.eq_none_or_eq_some c.pass
    · simp only [Option.bind_some, hp]
      exact tells_refl s
    · simp only [Option.bind_some, hp]
      have hoffer := (tells_modChannel s n fun c => { c with pass := none }).trans
        ((tells_mark _ (.chanBlock n)).trans
          (tells_offer _ c.desc.producer (abortedPassRecord n q false true s.clock)))
      refine hoffer.congr (fun p => ?_) (fun _ => by simp) fun i => by simp
      by_cases h : c.desc.producer = p
      · simp [onlyTo, h]
      · simp [onlyTo, h, Ne.symm h]

theorem abortedRecord_congr {s t : State} {n : Nat} (hc : t.channel? n = s.channel? n) (hk : t.clock = s.clock) (p : Port) :
    abortedRecord t p n = abortedRecord s p n := by
  unfold abortedRecord
  rw [hc, hk]

/-- R175: the records of the passes aborted, by increasing channel number. -/
theorem tells_abortPasses (s : State) : Tells s (indices.foldl abortPass s)
    (fun p => indices.filterMap (abortedRecord s p)) (fun _ => 0) ((indices.filter s.passOpen).map .chanBlock) := by
  have hloop := Tells.foldl (f := abortPass) (rs := fun n p => (abortedRecord s p n).toList)
    (is := fun n => if s.passOpen n then [.chanBlock n] else [])
    (I := fun ns u => u.clock = s.clock ∧ ns.Nodup ∧ ∀ n ∈ ns, u.channel? n = s.channel? n)
    (fun n ns u ⟨hclock, hnodup, hsame⟩ => by
      obtain ⟨hnew, hnodup⟩ := List.nodup_cons.1 hnodup
      have hn : u.channel? n = s.channel? n := hsame n List.mem_cons_self
      refine ⟨(tells_abortPass u n).congr (fun p => ?_) (fun _ => rfl) fun i => ?_,
        (abortPass_only u n).clock.trans hclock, hnodup, fun m hm => ?_⟩
      · rw [abortedRecord_congr hn hclock]
      · rw [State.passOpen, State.passOpen, hn]
      · rw [channel?_abortPass, if_neg fun e : m = n => hnew (e ▸ hm)]
        exact hsame m (List.mem_cons_of_mem _ hm))
    indices s ⟨rfl, List.nodup_range, fun _ _ => rfl⟩
  exact hloop.congr (fun p => List.filterMap_eq_flatMap_toList _ _) (fun _ => rfl) fun i => by rw [flatMap_ite_eq]

/-! ### The gathers cancelled (R173 step 3) -/

/-- A gather runs in group `g`. -/
def State.gathering (s : State) (g : Nat) : Bool := ((s.group? g).bind (·.gather)).isSome

/-- R173: a gather is cancelled without a record. -/
theorem tells_cancelGather (s : State) (g : Nat) : Tells s (cancelGather s g) (fun _ => []) (fun _ => 0)
    (if s.gathering g then [.groupBlock g] else []) := by
  unfold cancelGather State.gathering
  cases (s.group? g).bind (·.gather) with
  | none => exact tells_refl s
  | some q =>
    exact ((tells_modGroup s g _).trans (tells_mark _ (.groupBlock g))).congr (fun _ => rfl) (fun _ => by simp)
      fun i => by simp

theorem tells_cancelGathers (s : State) : Tells s (indices.foldl cancelGather s) (fun _ => []) (fun _ => 0)
    ((indices.filter s.gathering).map .groupBlock) := by
  have hloop := Tells.foldl (f := cancelGather) (rs := fun _ _ => [])
    (is := fun g => if s.gathering g then [.groupBlock g] else [])
    (I := fun gs u => gs.Nodup ∧ ∀ g ∈ gs, u.group? g = s.group? g)
    (fun g gs u ⟨hnodup, hsame⟩ => by
      obtain ⟨hnew, hnodup⟩ := List.nodup_cons.1 hnodup
      have hg : u.group? g = s.group? g := hsame g List.mem_cons_self
      refine ⟨(tells_cancelGather u g).congr (fun _ => rfl) (fun _ => rfl) fun i => ?_, hnodup, fun k hk => ?_⟩
      · rw [State.gathering, State.gathering, hg]
      · rw [group?_cancelGather, if_neg fun e : k = g => hnew (e ▸ hk)]
        exact hsame k (List.mem_cons_of_mem _ hk))
    indices s ⟨List.nodup_range, fun _ _ => rfl⟩
  exact hloop.congr (fun p => by simp) (fun _ => rfl) fun i => by rw [flatMap_ite_eq]

/-! ### The load abandoned (R130) -/

/-- The load in progress, if there is one (R111). -/
def LoaderState.load? : LoaderState → Option Load
  | .idle => none
  | .reading l => some l
  | .draining l => some l

/-- R130: the COMMIT record of a load that is abandoned. -/
def abandonedRecords (now : Word) (load : Option Load) : List Record :=
  match load with
  | some l => [commitRecord { gen := l.gen, code := .abandoned, detail := Detail.nothing } l.start now]
  | none => []

theorem abandonLoad_of_load {s : State} {l : Load} (h : s.loader.load? = some l) : abandonLoad s =
    reportLoadEnd l .abandoned Detail.nothing ({ s with loader := .idle, remembered := none }.mark (.part 1)) := by
  unfold abandonLoad
  cases hs : s.loader with
  | idle => rw [hs] at h; cases h
  | reading k => rw [hs] at h; cases h; rfl
  | draining k => rw [hs] at h; cases h; rfl

theorem tells_abandonLoad (s : State) : Tells s (abandonLoad s) (fun _ => abandonedRecords s.clock s.loader.load?)
    (fun _ => causeIf .commit s.loader.load?.isSome)
    (if s.loader.load?.isSome then [.part 1, .part 2, .part 3] else []) := by
  cases h : s.loader.load? with
  | none =>
    have hidle : s.loader = .idle := by
      cases hs : s.loader with
      | idle => rfl
      | reading l => rw [hs] at h; cases h
      | draining l => rw [hs] at h; cases h
    rw [abandonLoad_of_idle hidle]
    exact tells_refl s
  | some l =>
    have hfree : Tells s { s with loader := .idle, remembered := none } (fun _ => []) (fun _ => 0) [] :=
      .of_marks rfl rfl rfl (Marks.of_mirror rfl)
    rw [abandonLoad_of_load h]
    exact ((hfree.trans (tells_mark _ (.part 1))).trans (tells_reportLoadEnd l _ _ _)).congr (fun _ => rfl)
      (fun _ => by simp [causeIf]) fun _ => Iff.rfl

/-! ### The records in their order (R175) -/

/-- R175: the records for port `p`'s journal. -/
def holdoverRecords (s : State) (p : Port) : List Record :=
  holdoverRecord s :: indices.filterMap (abortedRecord s p) ++ abandonedRecords s.clock s.loader.load?

/-- R173 to R175: what the start of holdover tells before the held accesses are taken. -/
theorem tells_holdoverEntered (s : State) : Tells s (holdoverEntered s) (holdoverRecords s)
    (fun _ => causeIf .commit s.loader.load?.isSome)
    (.part 1 :: (if s.loader.load?.isSome then [.part 2, .part 3] else []) ++ (indices.filter s.passOpen).map .chanBlock ++
      (indices.filter s.gathering).map .groupBlock) := by
  have hpart : Tells s ({ s with partState := .holdover }.mark (.part 1)) (fun _ => []) (fun _ => 0) [.part 1] :=
    .of_marks rfl rfl rfl (marks_mark { s with partState := .holdover } (.part 1))
  have hstart := hpart.trans (tells_offerBoth _ (holdoverRecord s))
  have habort := tells_abortPasses (({ s with partState := .holdover }.mark (.part 1)).offerBoth (holdoverRecord s))
  generalize hx : ({ s with partState := .holdover }.mark (.part 1)).offerBoth (holdoverRecord s) = x at hstart habort
  have hsame : x.clock = s.clock ∧ x.loader = s.loader ∧ x.channels = s.channels ∧ x.groups = s.groups := by
    rw [← hx]
    exact ⟨rfl, rfl, rfl, rfl⟩
  obtain ⟨hclock, hloader, hchannels, hgroups⟩ := hsame
  have hcancel := tells_cancelGathers (indices.foldl abortPass x)
  have habandon := tells_abandonLoad (indices.foldl cancelGather (indices.foldl abortPass x))
  have hboth := OnlyExchange.foldl _ cancelGather_only indices
    (OnlyExchange.foldl _ abortPass_only indices (OnlyExchange.refl x))
  rw [hboth.clock, hboth.loader, hclock, hloader] at habandon
  have hrecord : ∀ p, abortedRecord x p = abortedRecord s p := fun p =>
    funext fun n => abortedRecord_congr (channel?_congr hchannels n) hclock p
  have hopen : x.passOpen = s.passOpen := funext fun n => by
    rw [State.passOpen, State.passOpen, channel?_congr hchannels]
  have hgather : (indices.foldl abortPass x).gathering = s.gathering := funext fun g => by
    rw [State.gathering, State.gathering, group?_congr ((foldl_field State.groups _ groups_abortPass _ _).trans hgroups)]
  have hall := (hstart.trans habort).trans (hcancel.trans habandon)
  rw [hopen, hgather] at hall
  unfold holdoverEntered
  rw [hx]
  refine hall.congr (fun p => ?_) (fun _ => by simp) fun i => ?_
  · simp [holdoverRecords, hrecord]
  · cases s.loader.load? with
    | none => simp
    | some l =>
      simp only [Option.isSome_some, if_true, List.mem_append, List.mem_cons, List.not_mem_nil]
      tauto

/-- R175: the HOLDOVER record: the state left, ABANDONED, the mask of the pending buffers kept. -/
theorem holdoverRecord_eq {s : State} (h : s.partState ≠ .holdover) : holdoverRecord s = mkRecord .holdover 0 none
    ((if s.partState = .running then 1 else 0) ||| flagBit 2 s.loader.load?.isSome)
    (channelMask ((List.range 24).filter s.hasPending)) s.clock 0 := by
  have hflags : ∀ b, (0#9 ++ BitVec.ofBool b ++ s.partState.code : BitVec (9 + 1 + 2)) =
      (if s.partState = .running then 1 else 0) ||| flagBit 2 b := by
    intro b
    cases hp : s.partState with
    | holdover => exact absurd hp h
    | running => cases b <;> decide
    | unconfigured => cases b <;> decide
  unfold holdoverRecord
  congr 1
  cases s.loader with
  | idle => exact hflags false
  | reading l => exact hflags true
  | draining l => exact hflags true

/-- R172: the event of a fall of PFAIL_N that starts holdover; a fall of RST_N that comes together with it leaves out its
grant. -/
theorem exec_holdoverStart_of_starts {s u : State} (hu : u = settle s) (hr : u.pins.rstN = true)
    (hp : u.partState ≠ .holdover) :
    let x := noteReports u (takeHeld (holdoverEntered { u with pins := { u.pins with pfailN := false } }))
    exec .holdoverStart s = .next (if s.pending.head? = some .resetAssert then x else grant x) := by
  have hstart : powerFails u = takeHeld (holdoverEntered { u with pins := { u.pins with pfailN := false } }) :=
    if_pos ⟨hr, hp⟩
  intro x
  rw [exec_holdoverStart, ← hu, event, ungranted, hstart]

/-- Settles O48: what each part of the start of holdover tells, put together in the order of R175. -/
theorem holdoverRecordsGoInOrder : Obligations.HoldoverRecordsGoInOrder := by
  intro s u done mask left load aborted commit rs hr hp
  have hu : u = settle s := rfl
  clear_value u
  let low : State := { u with pins := { u.pins with pfailN := false } }
  have hload : load = u.loader.load? := by
    cases hl : u.loader <;> simp only [load, hl, LoaderState.load?]
  have haborted : ∀ p, aborted p = indices.filterMap (abortedRecord low p) := fun p =>
    List.filterMap_congr fun n _ => rfl
  have hrs : ∀ p, rs p = holdoverRecords low p := fun p => by
    have hcommit : commit = abandonedRecords u.clock u.loader.load? := by
      rw [← hload]
      cases hl : load <;> simp only [commit, hl, abandonedRecords, Detail.nothing]
    change mkRecord _ _ _ _ _ _ _ :: aborted p ++ commit = _
    rw [holdoverRecords, holdoverRecord_eq (s := low) hp, ← haborted, hcommit, hload]
    rfl
  have htells := tells_holdoverEntered low
  refine ⟨holdoverEntered low, exec_holdoverStart_of_starts hu hr hp, fun p => ⟨?_, ?_⟩, ?_⟩
  · rw [hrs]
    exact htells.journal p
  · rw [hrs, hload]
    exact htells.attention p
  · rw [hrs, hrs, hload]
    exact htells.marks

end Sys2Proof.Machine

/-! SUPPORT. The formats of the tables (10.6), and validation as the list of its checks (R117 to R120): each step is a search for
the first check that refuses. -/
namespace Sys2Proof.Machine

/-! ### The fields of entries and descriptors (10.6) -/

theorem rightsCode_eq (c : BitVec 2) : (c = 0b00#2 → rightsCode c = some .none) ∧ (c = 0b01#2 → rightsCode c = some .read) ∧
    (c = 0b11#2 → rightsCode c = some .readWrite) ∧ (c = 0b10#2 → rightsCode c = none) := by
  refine ⟨?_, ?_, ?_, ?_⟩ <;> rintro rfl <;> rfl

theorem modeCode_eq (c : BitVec 2) : (c = 0b01#2 → modeCode c = some .immediate) ∧ (c = 0b10#2 → modeCode c = some .timed) ∧
    (c = 0b11#2 → modeCode c = some .gathered) ∧ (c = 0b00#2 → modeCode c = none) := by
  refine ⟨?_, ?_, ?_, ?_⟩ <;> rintro rfl <;> rfl

theorem portOfBit_eq_B (b : Bool) : portOfBit b = .B ↔ b = true := by
  cases b <;> decide

theorem rightsCode_isNone (c : BitVec 2) : (rightsCode c).isNone = true ↔ c = 0b10#2 := by
  revert c
  decide

theorem modeCode_isNone (c : BitVec 2) : (modeCode c).isNone = true ↔ c = 0b00#2 := by
  revert c
  decide

theorem modeCode_timed (c : BitVec 2) : modeCode c = some .timed ↔ c = 0b10#2 := by
  revert c
  decide

theorem faultSignalCode_isNone (c : BitVec 2) : (faultSignalCode c).isNone = true ↔ c = 0b00#2 ∨ c = 0b11#2 := by
  revert c
  decide

/-! ### The checks of single entries (R118) -/

theorem paramFails_iff (w : Word) : paramFails w = true ↔ BadParam w := by
  simp only [paramFails, paramFaultSignal, Bool.or_eq_true, faultSignalCode_isNone, or_assoc, BadParam]

theorem windowFails_iff (base len : Nat) : windowFails base len = true ↔ BadWindow base len := by
  simp [windowFails]

theorem regionFails_iff (r : RegionWords) : regionFails r = true ↔ BadRegion r := by
  simp only [regionFails, RegionWords.rightsA, RegionWords.rightsB, Bool.or_eq_true, rightsCode_isNone, beq_iff_eq,
    decide_eq_true_eq, windowFails_iff, or_assoc, BadRegion, gt_iff_lt]

theorem chanFails_iff (d : ChanDesc) : chanFails d = true ↔ BadChannel d := by
  simp only [chanFails, Bool.or_eq_true, Bool.not_eq_true', Bool.or_eq_false_iff, beq_eq_false_iff_ne, beq_iff_eq,
    decide_eq_true_eq, decide_eq_false_iff_not, windowFails_iff, or_assoc, and_assoc, BadChannel, gt_iff_lt, not_le, chainEnd]

theorem groupFails_iff (d : GroupDesc) : groupFails d = true ↔ BadGroup d := by
  simp only [groupFails, GroupDesc.mode, Bool.or_eq_true, Bool.and_eq_true, modeCode_isNone, beq_iff_eq, modeCode_timed,
    decide_eq_true_eq, or_assoc, BadGroup, gt_iff_lt]

/-! ### Searches -/

/-- A step that has not refused lets the next decide. -/
theorem or_congr_of_none {α : Type} {a a' b b' : Option α} (h : a = a') (k : a = none → b = b') : a.or b = a'.or b' := by
  subst h
  cases a with
  | none => exact k rfl
  | some x => rfl

theorem findSome?_congr_mem {α β : Type} {f g : α → Option β} {l : List α} (h : ∀ x ∈ l, f x = g x) :
    l.findSome? f = l.findSome? g := by
  induction l with
  | nil => rfl
  | cons x l ih =>
    rw [List.findSome?_cons, List.findSome?_cons, h x List.mem_cons_self, ih fun y hy => h y (List.mem_cons_of_mem x hy)]

theorem findSome?_filter_eq {α β : Type} (P : α → Bool) (f : α → Option β) (l : List α) :
    (l.filter P).findSome? f = l.findSome? fun x => if P x then f x else none := by
  induction l with
  | nil => rfl
  | cons x l ih =>
    rw [List.findSome?_cons, List.filter_cons, ← ih]
    cases P x <;> rfl

theorem ite_eq_of_iff {α : Type} {p : Prop} [Decidable p] {b : Bool} (h : b = true ↔ p) (x y : α) :
    (if b then x else y) = if p then x else y := if_congr h rfl rfl

/-- R117: a step that judges the entries of a table one by one. -/
theorem firstFailing_eq {is : List Nat} {P fails : Nat → Bool} {C : Nat → Check} {code : ResultCode} {t : TableCode}
    {f : Check → Option Failure}
    (h : ∀ i ∈ is, f (C i) = if (P i && fails i) = true then some (code, detailOf t i) else none) :
    firstFailing (is.filter P) fails code t = (is.map C).findSome? f := by
  have hfind : firstFailing (is.filter P) fails code t =
      (is.filter P).findSome? fun i => if fails i then some (code, detailOf t i) else none := by
    unfold firstFailing
    induction is.filter P with
    | nil => rfl
    | cons i is ih =>
      rw [List.find?_cons, List.findSome?_cons, ← ih]
      cases fails i <;> rfl
  rw [hfind, findSome?_filter_eq, List.findSome?_map]
  refine findSome?_congr_mem fun i hi => ?_
  rw [Function.comp_apply, h i hi]
  cases P i <;> simp

/-! ### Walks (R119) -/

/-- R119: a walk that goes on as `WalksOn` says does not fail. -/
theorem walkChain_of_walksOn {l : Load} {g n : Nat} (hwalk : ∀ k, k < n → l.WalksOn g n k) (r : Nat) :
    ∀ k fuel, k + (r + 1) = n → r + 1 ≤ fuel →
      walkChain l g fuel (l.member g k) ((List.range k).map (l.member g)) = some ((List.range n).map (l.member g)) := by
  have hgoes : ∀ k fuel, k < n → walkChain l g (fuel + 1) (l.member g k) ((List.range k).map (l.member g)) =
      if (l.chan (l.member g k)).nextMember = chainEnd then some ((List.range (k + 1)).map (l.member g))
      else walkChain l g fuel (l.member g (k + 1)) ((List.range (k + 1)).map (l.member g)) := by
    intro k fuel hk
    obtain ⟨hlt, hvalid, hgroup, -, hnew⟩ := hwalk k hk
    have happend : (List.range k).map (l.member g) ++ [l.member g k] = (List.range (k + 1)).map (l.member g) := by
      simp [List.range_succ]
    have hon : ((l.nextOf (l.member g k)).isSome && (l.chan (l.member g k)).group == g &&
        !((List.range k).map (l.member g)).contains (l.member g k)) = true := by
      simpa [Load.nextOf, hlt, hvalid, hgroup] using hnew
    rw [walkChain, if_pos hon, happend]
    rfl
  induction r with
  | zero =>
    rintro k (_ | fuel) hk hfuel
    · omega
    · obtain ⟨-, -, -, hend, -⟩ := hwalk k (by omega)
      have hlast : (l.chan (l.member g k)).nextMember = chainEnd := hend.2 hk
      rw [hgoes k fuel (by omega), if_pos hlast, hk]
  | succ r ih =>
    rintro k (_ | fuel) hk hfuel
    · omega
    · obtain ⟨-, -, -, hend, -⟩ := hwalk k (by omega)
      have hon : (l.chan (l.member g k)).nextMember ≠ chainEnd := fun e => by have := hend.1 e; omega
      rw [hgoes k fuel (by omega), if_neg hon]
      exact ih (k + 1) fuel (by omega) (by omega)

section Walk
variable {l : Load} {g : Nat}

/-- R119: the walk of a valid group finds `ms` exactly if it ends at END after visiting them. -/
theorem Load.walk_eq_some_iff (hg : g < 24) (hv : (l.group g).valid = true) {ms : List Nat} :
    l.walk g = some ms ↔ ∃ n ∈ List.range 25, l.walksTo g n = true ∧ ms = (List.range n).map (l.member g) := by
  refine ⟨fun h => ?_, fun ⟨n, _, hn, hms⟩ => ?_⟩
  · obtain ⟨-, -, n, hn, hms⟩ := Load.walk_eq_some h
    have hle := Load.walksTo_le (of_decide_eq_true hn).2
    exact ⟨n, List.mem_range.2 (by omega), hn, hms⟩
  · obtain ⟨hpos, hwalk⟩ := of_decide_eq_true hn
    obtain ⟨r, rfl⟩ := Nat.exists_eq_add_of_le' hpos
    have hle := Load.walksTo_le hwalk
    rw [Load.walk, if_pos ⟨hg, hv⟩, hms]
    exact walkChain_of_walksOn hwalk r 0 25 (by omega) (by omega)

theorem Load.walk_isNone_iff (hg : g < 24) (hv : (l.group g).valid = true) :
    (l.walk g).isNone = true ↔ ¬ ∃ n ∈ List.range 25, l.walksTo g n = true := by
  rw [Option.isNone_iff_eq_none, Option.eq_none_iff_forall_ne_some]
  refine ⟨fun h ⟨n, hn, hwalk⟩ => h _ ((l.walk_eq_some_iff hg hv).2 ⟨n, hn, hwalk, rfl⟩), fun h ms hms => ?_⟩
  obtain ⟨n, hn, hwalk, -⟩ := (l.walk_eq_some_iff hg hv).1 hms
  exact h ⟨n, hn, hwalk⟩

/-- R119: what holds of the members that a walk visits. -/
theorem Load.walk_any_iff (hg : g < 24) (hv : (l.group g).valid = true) (Q : Nat → Bool) :
    (∃ ms, l.walk g = some ms ∧ ms.any Q = true) ↔
      ∃ n ∈ List.range 25, l.walksTo g n = true ∧ ∃ k, k < n ∧ Q (l.member g k) = true := by
  constructor
  · rintro ⟨ms, hms, hany⟩
    obtain ⟨n, hn, hwalk, rfl⟩ := (l.walk_eq_some_iff hg hv).1 hms
    obtain ⟨x, hx, hq⟩ := List.any_eq_true.1 hany
    obtain ⟨k, hk, rfl⟩ := List.mem_map.1 hx
    exact ⟨n, hn, hwalk, k, List.mem_range.1 hk, hq⟩
  · rintro ⟨n, hn, hwalk, k, hk, hq⟩
    exact ⟨_, (l.walk_eq_some_iff hg hv).2 ⟨n, hn, hwalk, rfl⟩,
      List.any_eq_true.2 ⟨_, List.mem_map_of_mem (List.mem_range.2 hk), hq⟩⟩

theorem Load.walk_of_invalid (hv : ¬ (g < 24 ∧ (l.group g).valid = true)) : l.walk g = none := if_neg hv

theorem Load.mixed_iff (hg : g < 24) (hv : (l.group g).valid = true) : l.mixed g = true ↔
    ∃ n ∈ List.range 25, l.walksTo g n = true ∧
      ∃ k, k < n ∧ (l.chan (l.member g k)).producer ≠ (l.chan (l.member g 0)).producer := by
  have hany := l.walk_any_iff hg hv fun m => (l.chan m).producer != (l.chan (l.group g).first).producer
  simp only [bne_iff_ne] at hany
  rw [show (l.member g 0) = (l.group g).first from rfl, ← hany]
  unfold Load.mixed
  cases l.walk g <;> simp

theorem Load.visited_iff {n : Nat} (hg : (l.chan n).group < 24) : l.visited n = true ↔
    (l.group (l.chan n).group).valid = true ∧ ∃ m ∈ List.range 25, l.walksTo (l.chan n).group m = true ∧
      ∃ k, k < m ∧ l.member (l.chan n).group k = n := by
  have hcontains : l.visited n = true ↔ ∃ ms, l.walk (l.chan n).group = some ms ∧ (ms.any (· == n)) = true := by
    unfold Load.visited
    cases l.walk (l.chan n).group <;> simp
  rw [hcontains]
  by_cases hv : (l.group (l.chan n).group).valid = true
  · rw [l.walk_any_iff hg hv]
    simp [hv]
  · rw [l.walk_of_invalid fun h => hv h.2]
    simp [hv]

end Walk

end Sys2Proof.Machine

/-! SUPPORT. Windows and physical spans (R120), and the eight steps of validation in their order (R117). -/
namespace Sys2Proof.Machine

/-! ### Spans one after another -/

/-- The spans of the entries before entry `e` that hold: those of which `P` holds. -/
def spansBefore (P : Nat → Bool) (σ : Nat → Span) (e : Nat) : List Span := ((List.range e).filter P).map σ

theorem spansBefore_succ (P : Nat → Bool) (σ : Nat → Span) (e : Nat) :
    spansBefore P σ (e + 1) = spansBefore P σ e ++ if P e then [σ e] else [] := by
  rw [spansBefore, spansBefore, List.range_succ, List.filter_append, List.map_append]
  cases h : P e <;> simp [h]

theorem filter_range'_succ (P : Nat → Bool) (σ : Nat → Span) (e m : Nat) :
    ((List.range' e (m + 1)).filter P).map σ =
      (if P e then [σ e] else []) ++ ((List.range' (e + 1) m).filter P).map σ := by
  rw [List.range'_succ, List.filter_cons]
  cases P e <;> rfl

theorem any_spansBefore {P : Nat → Bool} {σ : Nat → Span} {e : Nat} {Q : Span → Bool} :
    (spansBefore P σ e).any Q = true ↔ ∃ f, f < e ∧ P f = true ∧ Q (σ f) = true := by
  simp [spansBefore]

/-- R120, step 7: the first window that meets one before it. -/
theorem firstOverlap_eq (P : Nat → Bool) (σ : Nat → Span) (m : Nat) : ∀ e,
    firstOverlap (spansBefore P σ e) (((List.range' e m).filter P).map σ) =
      (List.range' e m).findSome? fun x => if P x && (spansBefore P σ x).any (σ x).meets then some (σ x) else none := by
  induction m with
  | zero => exact fun _ => rfl
  | succ m ih =>
    intro e
    have hnext := ih (e + 1)
    rw [filter_range'_succ, List.range'_succ, List.findSome?_cons, ← hnext, spansBefore_succ]
    cases P e with
    | false => simp
    | true =>
      simp only [if_true, List.singleton_append, firstOverlap, Bool.true_and]
      cases (spansBefore P σ e).any (σ e).meets <;> rfl

/-- R120, step 8: the buffers, each against the spans barred to all of them and the buffers before it. -/
theorem buffersFail_eq (P : Nat → Bool) (σ : Nat → Span) (fitted : Nat) (barred : List Span) (m : Nat) : ∀ e,
    buffersFail fitted (barred ++ spansBefore P σ e) (((List.range' e m).filter P).map σ) =
      (List.range' e m).findSome? fun x =>
        if P x then spanFails fitted (barred ++ spansBefore P σ x) (σ x) else none := by
  induction m with
  | zero => exact fun _ => rfl
  | succ m ih =>
    intro e
    have hnext := ih (e + 1)
    rw [filter_range'_succ, List.range'_succ, List.findSome?_cons, ← hnext, spansBefore_succ]
    cases P e with
    | false => simp
    | true =>
      simp only [if_true, List.singleton_append, buffersFail, List.append_assoc]
      cases spanFails fitted (barred ++ spansBefore P σ e) (σ e) <;> rfl

theorem Span.meets_iff (x y : Span) : x.meets y = true ↔ Meet y.base y.len x.base x.len := by
  simp only [Span.meets, Bool.and_eq_true, decide_eq_true_eq, Meet, and_comm]

/-! ### The windows (R120, step 7) -/

section Windows
variable (l : Load)

/-- Window `e` of R120 is that of a valid entry. -/
def Load.windowValid (e : Nat) : Bool := (l.window e).1

/-- Window `e` of R120 as a span. -/
def Load.windowSpan (e : Nat) : Span :=
  { owner := (l.window e).2.2.2, base := (l.window e).2.1, len := (l.window e).2.2.1 }

/-- R120: "in table order": the regions' windows, then the channels'. -/
theorem Load.logicalSpans_eq : l.logicalSpans = ((List.range' 0 40).filter l.windowValid).map l.windowSpan := by
  have hregions : ((List.range 16).filter l.windowValid).map l.windowSpan = l.regions.map fun i =>
      { owner := detailOf .region i, base := (l.region i).lbase.toNat, len := (l.region i).len.toNat } := by
    have hwin : ∀ i ∈ List.range 16, l.window i = ((l.region i).valid, (l.region i).lbase.toNat, (l.region i).len.toNat,
        detailOf .region i) := fun i hi => if_pos (List.mem_range.1 hi)
    rw [Load.regions, List.filter_congr fun i hi => by rw [Load.windowValid, hwin i hi]]
    exact List.map_congr_left fun i hi => by rw [Load.windowSpan, hwin i (List.mem_of_mem_filter hi)]
  have hchans : (((List.range 24).map (16 + ·)).filter l.windowValid).map l.windowSpan = l.chans.map fun n =>
      { owner := detailOf .channel n, base := (l.chan n).lbase, len := (l.chan n).len } := by
    have hwin : ∀ n, l.window (16 + n) = ((l.chan n).valid, (l.chan n).lbase, (l.chan n).len, detailOf .channel n) := by
      intro n
      rw [Load.window, if_neg (by omega), Nat.add_sub_cancel_left]
      rfl
    rw [List.filter_map, List.map_map, Load.chans]
    have hvalid : l.windowValid ∘ (16 + ·) = fun n => (l.chan n).valid :=
      funext fun n => by rw [Function.comp_apply, Load.windowValid, hwin]
    have hspan : l.windowSpan ∘ (16 + ·) = fun n =>
        ({ owner := detailOf .channel n, base := (l.chan n).lbase, len := (l.chan n).len } : Span) :=
      funext fun n => by rw [Function.comp_apply, Load.windowSpan, hwin]
    rw [hvalid, hspan]
    rfl
  have hrange : List.range' 0 40 = List.range 16 ++ (List.range 24).map (16 + ·) := by decide
  rw [hrange, List.filter_append, List.map_append, hregions, hchans, Load.logicalSpans]

/-- R120, step 7. -/
theorem Load.windows_fail_eq (fitted : Nat) :
    (firstOverlap [] l.logicalSpans).map (fun x => (ResultCode.logicalOverlap, x.owner)) =
      ((List.range 40).map Check.window).findSome? (l.refuses fitted) := by
  have hfirst := firstOverlap_eq l.windowValid l.windowSpan 40 0
  rw [← Load.logicalSpans_eq] at hfirst
  rw [show firstOverlap [] l.logicalSpans = _ from hfirst, List.map_findSome?, List.findSome?_map, List.range_eq_range']
  refine findSome?_congr_mem fun e _ => ?_
  rw [Function.comp_apply, Function.comp_apply]
  have hiff : (l.windowValid e && (spansBefore l.windowValid l.windowSpan e).any (l.windowSpan e).meets) = true ↔
      (l.window e).1 = true ∧ ∃ f, f < e ∧ (l.window f).1 = true ∧
        Meet (l.window f).2.1 (l.window f).2.2.1 (l.window e).2.1 (l.window e).2.2.1 := by
    simp only [Bool.and_eq_true, any_spansBefore, Span.meets_iff, Load.windowValid, Load.windowSpan]
  have hrefuses := ite_eq_of_iff hiff (some (ResultCode.logicalOverlap, (l.window e).2.2.2)) none
  rw [show l.refuses fitted (.window e) = _ from hrefuses.symm]
  split <;> rfl

end Windows

/-! ### The physical spans (R120, step 8) -/

theorem meets_controlSpan {x : Span} (h : x.len ≠ 0) : x.meets controlSpan = true ↔ x.base < 0x1000 := by
  rw [Span.meets_iff]
  change (0 < x.base + x.len ∧ x.base < 0 + 0x1000) ↔ x.base < 0x1000
  omega

/-- R120: the check of one span, whose overlaps are said by `p`. -/
theorem spanFails_eq {fitted : Nat} {barred : List Span} {x : Span} {p : Prop} [Decidable p]
    (h : barred.any x.meets = true ↔ p) : spanFails fitted barred x =
      if fitted < x.base + x.len then some (.beyondFitted, x.owner)
      else if p then some (.physicalOverlap, x.owner) else none := by
  rw [← ite_eq_of_iff h]
  rfl

section Spans
variable {l : Load}

/-- R120, step 8: the windows of the valid regions, given that step 2 has passed. -/
theorem Load.regionSpans_fail_eq (h : ∀ i, i < 16 → (l.region i).valid = true → (l.region i).len.toNat ≠ 0) (fitted : Nat) :
    (l.regions.map l.regionSpan).findSome? (spanFails fitted [controlSpan]) =
      ((List.range 16).map Check.regionSpan).findSome? (l.refuses fitted) := by
  rw [List.findSome?_map, List.findSome?_map, Load.regions, findSome?_filter_eq]
  refine findSome?_congr_mem fun i hi => ?_
  cases hv : (l.region i).valid with
  | false => exact (if_pos hv).symm
  | true =>
    have hcontrol : [controlSpan].any (l.regionSpan i).meets = true ↔ (l.region i).pbase.toNat < 0x1000 := by
      rw [List.any_cons, List.any_nil, Bool.or_false]
      exact meets_controlSpan (x := l.regionSpan i) (h i (List.mem_range.1 hi) hv)
    have hvalid : ¬ (l.region i).valid = false := by rw [hv]; decide
    exact (spanFails_eq hcontrol).trans (if_neg hvalid).symm

variable (l) in
/-- Buffer `k` is one of the valid channel `n`. -/
def Load.hasBuffer (n k : Nat) : Bool := (l.chan n).valid && decide (k < (l.chan n).depth)

variable (l) in
/-- R120: the span of buffer `k` of channel `n`. -/
def Load.bufferSpan (n k : Nat) : Span :=
  { owner := detailOf .channel n, base := ((l.chan n).base k).toNat, len := (l.chan n).len }

/-- Four buffers to each channel, in order. -/
theorem flatMap_fours {α : Type} (f : Nat → Nat → List α) :
    ((List.range 24).flatMap fun n => (List.range 4).flatMap (f n)) =
      (List.range' 0 96).flatMap fun e => f (e / 4) (e % 4) := by
  have hfours : ((List.range 24).flatMap fun n => (List.range 4).map fun k => (n, k)) =
      (List.range' 0 96).map fun e => (e / 4, e % 4) := by decide
  have hpairs := congrArg (List.flatMap fun x : Nat × Nat => f x.1 x.2) hfours
  simpa only [List.flatMap_assoc, List.flatMap_map] using hpairs

/-- R120: the buffers of the valid channels, given that step 3 has passed. -/
theorem Load.bufferSpans_eq (h : ∀ n, n < 24 → (l.chan n).valid = true → (l.chan n).depth ≤ 4) :
    l.chans.flatMap l.bufferSpans =
      ((List.range' 0 96).filter fun e => l.hasBuffer (e / 4) (e % 4)).map fun e => l.bufferSpan (e / 4) (e % 4) := by
  have hdepth : ∀ d, d ≤ 4 → (List.range 4).filter (fun k => decide (k < d)) = List.range d := by decide
  have hone : ∀ n ∈ List.range 24, (if (l.chan n).valid then l.bufferSpans n else []) =
      (List.range 4).flatMap fun k => if l.hasBuffer n k then [l.bufferSpan n k] else [] := by
    intro n hn
    rw [flatMap_ite_eq]
    cases hv : (l.chan n).valid with
    | false => simp [Load.hasBuffer, hv]
    | true =>
      have hhas : l.hasBuffer n = fun k => decide (k < (l.chan n).depth) :=
        funext fun k => by rw [Load.hasBuffer, hv, Bool.true_and]
      rw [hhas, hdepth _ (h n (List.mem_range.1 hn) hv)]
      rfl
  have hchans : l.chans.flatMap l.bufferSpans =
      (List.range 24).flatMap fun n => if (l.chan n).valid then l.bufferSpans n else [] := by
    unfold Load.chans
    change ((List.range 24).filter _).flatMap _ = _
    generalize List.range 24 = ns
    induction ns with
    | nil => rfl
    | cons n ns ih =>
      rw [List.filter_cons, List.flatMap_cons, ← ih]
      cases (l.chan n).valid <;> rfl
  rw [hchans, List.flatMap_congr hone, flatMap_fours fun n k => if l.hasBuffer n k then [l.bufferSpan n k] else [],
    flatMap_ite_eq (fun e => l.hasBuffer (e / 4) (e % 4))]

/-- R120: what the span of buffer `k` of channel `n` may not meet. -/
theorem Load.bufferOverlaps_iff {n k : Nat} (hk : k < 4) (hlen : (l.chan n).len ≠ 0) :
    ((controlSpan :: l.regions.map l.regionSpan) ++
      spansBefore (fun e => l.hasBuffer (e / 4) (e % 4)) (fun e => l.bufferSpan (e / 4) (e % 4)) (4 * n + k)).any
        (l.bufferSpan n k).meets = true ↔ l.BufferOverlaps n k := by
  have hregion : (l.regions.map l.regionSpan).any (l.bufferSpan n k).meets = true ↔
      ∃ i, i < 16 ∧ (l.region i).valid = true ∧
        Meet (l.region i).pbase.toNat (l.region i).len.toNat ((l.chan n).base k).toNat (l.chan n).len := by
    simp [Load.regions, Span.meets_iff, Load.regionSpan, Load.bufferSpan]
  have hbefore : (spansBefore (fun e => l.hasBuffer (e / 4) (e % 4)) (fun e => l.bufferSpan (e / 4) (e % 4))
      (4 * n + k)).any (l.bufferSpan n k).meets = true ↔
      (∃ j, j < k ∧ l.BufferMeets n j ((l.chan n).base k).toNat (l.chan n).len) ∨
      (∃ m, m < n ∧ ∃ j, j < 4 ∧ l.BufferMeets m j ((l.chan n).base k).toNat (l.chan n).len) := by
    have hmeets : ∀ m j, (l.hasBuffer m j = true ∧ (l.bufferSpan n k).meets (l.bufferSpan m j) = true) ↔
        l.BufferMeets m j ((l.chan n).base k).toNat (l.chan n).len := fun m j => by
      simp only [Load.hasBuffer, Span.meets_iff, Load.bufferSpan, Bool.and_eq_true, decide_eq_true_eq, and_assoc]
    simp only [any_spansBefore, hmeets]
    constructor
    · rintro ⟨f, hf, hmeet⟩
      by_cases hfn : f / 4 = n
      · exact .inl ⟨f % 4, by omega, hfn ▸ hmeet⟩
      · exact .inr ⟨f / 4, by omega, f % 4, by omega, hmeet⟩
    · have hat : ∀ m j, j < 4 → l.BufferMeets m j ((l.chan n).base k).toNat (l.chan n).len → 4 * m + j < 4 * n + k →
          ∃ f, f < 4 * n + k ∧ l.BufferMeets (f / 4) (f % 4) ((l.chan n).base k).toNat (l.chan n).len := by
        intro m j hj hmeet hlt
        have hdiv : (4 * m + j) / 4 = m ∧ (4 * m + j) % 4 = j := by omega
        exact ⟨4 * m + j, hlt, by rw [hdiv.1, hdiv.2]; exact hmeet⟩
      rintro (⟨j, hj, hmeet⟩ | ⟨m, hm, j, hj, hmeet⟩)
      · exact hat n j (by omega) hmeet (by omega)
      · exact hat m j hj hmeet (by omega)
  rw [List.cons_append, List.any_cons, List.any_append, Bool.or_eq_true, Bool.or_eq_true,
    meets_controlSpan (x := l.bufferSpan n k) hlen, hregion, hbefore]
  exact Iff.rfl

/-- R120, step 8: the buffers of the valid channels, given that step 3 has passed. -/
theorem Load.buffers_fail_eq (h : ∀ n, n < 24 → (l.chan n).valid = true → (l.chan n).depth ≤ 4 ∧ (l.chan n).len ≠ 0)
    (fitted : Nat) :
    buffersFail fitted (controlSpan :: l.regions.map l.regionSpan) (l.chans.flatMap l.bufferSpans) =
      ((List.range 24).flatMap fun n => (List.range 4).map (Check.buffer n)).findSome? (l.refuses fitted) := by
  have hdepth : ∀ n, n < 24 → (l.chan n).valid = true → (l.chan n).depth ≤ 4 := fun n hn hv => (h n hn hv).1
  have hfail := buffersFail_eq (fun e => l.hasBuffer (e / 4) (e % 4)) (fun e => l.bufferSpan (e / 4) (e % 4)) fitted
    (controlSpan :: l.regions.map l.regionSpan) 96 0
  rw [← Load.bufferSpans_eq hdepth] at hfail
  have hchecks : ((List.range 24).flatMap fun n => (List.range 4).map (Check.buffer n)) =
      (List.range' 0 96).map fun e => Check.buffer (e / 4) (e % 4) := by decide
  rw [hchecks, List.findSome?_map]
  refine (Eq.trans ?_ hfail).trans (findSome?_congr_mem fun e he => ?_)
  · exact congrArg (fun b => buffersFail fitted b _) (List.append_nil _).symm
  · have hlt : e / 4 < 24 ∧ e % 4 < 4 ∧ 4 * (e / 4) + e % 4 = e := by
      have := List.mem_range'_1.1 he
      omega
    obtain ⟨hn, hk, heq⟩ := hlt
    cases hv : l.hasBuffer (e / 4) (e % 4) with
    | false =>
      have hnone : (l.chan (e / 4)).valid = false ∨ (l.chan (e / 4)).depth ≤ e % 4 := by
        simpa only [Load.hasBuffer, Bool.and_eq_false_iff, decide_eq_false_iff_not, not_lt] using hv
      exact (if_pos hnone).symm
    | true =>
      obtain ⟨hvalid, hlow⟩ : (l.chan (e / 4)).valid = true ∧ e % 4 < (l.chan (e / 4)).depth := by
        simpa [Load.hasBuffer] using hv
      have hsome : ¬ ((l.chan (e / 4)).valid = false ∨ (l.chan (e / 4)).depth ≤ e % 4) := by
        rintro (hfalse | hle)
        · exact nomatch hvalid.symm.trans hfalse
        · exact absurd hlow (not_lt.2 hle)
      have hoverlap := Load.bufferOverlaps_iff hk (h _ hn hvalid).2
      rw [heq] at hoverlap
      exact (spanFails_eq hoverlap).trans (if_neg hsome).symm

end Spans

/-! ### The eight steps (R117) -/

section Steps
variable (l : Load) (fitted : Nat)

theorem Load.refuses_parameter : l.refuses fitted .parameter =
    if paramFails l.param then some (.badParam, detailOf .parameter 0) else none :=
  (ite_eq_of_iff (paramFails_iff l.param) _ _).symm

theorem Load.refuses_region (i : Nat) : l.refuses fitted (.region i) =
    if ((l.region i).valid && regionFails (l.region i)) = true then some (.badRegion, detailOf .region i) else none :=
  (ite_eq_of_iff (by rw [Bool.and_eq_true, regionFails_iff]) _ _).symm

theorem Load.refuses_channel (n : Nat) : l.refuses fitted (.channel n) =
    if ((l.chan n).valid && chanFails (l.chan n)) = true then some (.badChannel, detailOf .channel n) else none :=
  (ite_eq_of_iff (by rw [Bool.and_eq_true, chanFails_iff]) _ _).symm

theorem Load.refuses_group (g : Nat) : l.refuses fitted (.group g) =
    if ((l.group g).valid && groupFails (l.group g)) = true then some (.badGroup, detailOf .group g) else none :=
  (ite_eq_of_iff (by rw [Bool.and_eq_true, groupFails_iff]) _ _).symm

theorem Load.refuses_walk {g : Nat} (hg : g < 24) : l.refuses fitted (.walk g) =
    if ((l.group g).valid && (l.walk g).isNone) = true then some (.chainBroken, detailOf .group g) else none :=
  (ite_eq_of_iff (by
    rw [Bool.and_eq_true]
    exact and_congr_right fun hv => Load.walk_isNone_iff hg hv) _ _).symm

theorem Load.refuses_visit {n : Nat} (hg : (l.chan n).valid = true → (l.chan n).group < 24) : l.refuses fitted (.visit n) =
    if ((l.chan n).valid && !l.visited n) = true then some (.chainBroken, detailOf .channel n) else none :=
  (ite_eq_of_iff (by
    rw [Bool.and_eq_true, Bool.not_eq_true', ← Bool.not_eq_true]
    exact and_congr_right fun hv => not_congr (Load.visited_iff (hg hv))) _ _).symm

theorem Load.refuses_producers {g : Nat} (hg : g < 24) : l.refuses fitted (.producers g) =
    if ((l.group g).valid && l.mixed g) = true then some (.mixedProducer, detailOf .group g) else none :=
  (ite_eq_of_iff (by
    rw [Bool.and_eq_true]
    exact and_congr_right fun hv => Load.mixed_iff hg hv) _ _).symm

/-- R118: what the rest of validation needs of a channel that step 3 has passed. -/
theorem bounds_of_not_chanFails {d : ChanDesc} (h : chanFails d = false) : d.depth ≤ 4 ∧ d.group < 24 ∧ d.len ≠ 0 := by
  have hgood : ¬ BadChannel d := fun hbad => Bool.eq_false_iff.1 h ((chanFails_iff d).2 hbad)
  simp only [not_or] at hgood
  omega

theorem Load.physicalFails_eq : l.physicalFails fitted =
    ((l.regions.map l.regionSpan).findSome? (spanFails fitted [controlSpan])).or
      (buffersFail fitted (controlSpan :: l.regions.map l.regionSpan) (l.chans.flatMap l.bufferSpans)) := by
  unfold Load.physicalFails
  cases (l.regions.map l.regionSpan).findSome? (spanFails fitted [controlSpan]) <;> rfl

/-- R117 to R120: validation is the search for the first check that refuses. -/
theorem Load.validate_eq : l.validate fitted = checksInOrder.findSome? (l.refuses fitted) := by
  have hlt : ∀ {n m}, n ∈ List.range m → n < m := List.mem_range.1
  simp only [Load.validate, checksInOrder, Option.orElse_eq_orElse, Option.orElse_eq_or, List.findSome?_append,
    Option.or_assoc]
  refine or_congr_of_none (by rw [List.findSome?_cons, Load.refuses_parameter]; split <;> rfl) fun _ =>
    or_congr_of_none (firstFailing_eq fun i _ => l.refuses_region fitted i) fun hregion =>
    or_congr_of_none (firstFailing_eq fun n _ => l.refuses_channel fitted n) fun hchan => ?_
  have hlen : ∀ i, i < 16 → (l.region i).valid = true → (l.region i).len.toNat ≠ 0 := fun i hi hv hzero => by
    have hpass := firstFailing_eq_none.1 hregion i (List.mem_filter.2 ⟨List.mem_range.2 hi, hv⟩)
    exact Bool.eq_false_iff.1 hpass ((regionFails_iff _).2 (.inr (.inr (.inl hzero))))
  have hbounds : ∀ n, n < 24 → (l.chan n).valid = true →
      (l.chan n).depth ≤ 4 ∧ (l.chan n).group < 24 ∧ (l.chan n).len ≠ 0 := fun n hn hv =>
    bounds_of_not_chanFails (firstFailing_eq_none.1 hchan n (Load.mem_chans.2 ⟨hn, hv⟩))
  refine or_congr_of_none (firstFailing_eq fun g _ => l.refuses_group fitted g) fun _ =>
    or_congr_of_none (firstFailing_eq fun g hg => l.refuses_walk fitted (hlt hg)) fun _ =>
    or_congr_of_none (firstFailing_eq fun n hn => l.refuses_visit fitted fun hv => (hbounds n (hlt hn) hv).2.1) fun _ =>
    or_congr_of_none (firstFailing_eq fun g hg => l.refuses_producers fitted (hlt hg)) fun _ =>
    or_congr_of_none (l.windows_fail_eq fitted) fun _ => ?_
  rw [Load.physicalFails_eq, Load.regionSpans_fail_eq hlen,
    Load.buffers_fail_eq fun n hn hv => ⟨(hbounds n hn hv).1, (hbounds n hn hv).2.2⟩]

end Steps

end Sys2Proof.Machine

/-! SUPPORT. The last reads of a load (R115 to R117, R121, R122): the resume candidates, the resume reads, and the end of the
reading. -/
namespace Sys2Proof.Machine

/-! ### The fields in the words of the spec (10.6) -/

theorem RegionWords.fields (r : RegionWords) : r.valid = r.w0.getLsbD 0 ∧
    (∀ code rights, (code = r.w0.extractLsb' 4 2 ∧ rights = r.rightsA) ∨ (code = r.w0.extractLsb' 6 2 ∧ rights = r.rightsB) →
      (code = 0b00#2 → rights = some .none) ∧ (code = 0b01#2 → rights = some .read) ∧
      (code = 0b11#2 → rights = some .readWrite) ∧ (code = 0b10#2 → rights = none)) ∧
    r.lbase = r.w1.extractLsb' 0 16 ∧ r.len = r.w2.extractLsb' 0 16 ∧ r.pbase = r.w3.extractLsb' 0 17 := by
  refine ⟨rfl, ?_, rfl, rfl, rfl⟩
  rintro _ _ (⟨rfl, rfl⟩ | ⟨rfl, rfl⟩)
  · exact rightsCode_eq _
  · exact rightsCode_eq _

/-! ### The candidates (R115) -/

theorem pickCandidates_eq (s : State) (l : Load) : pickCandidates s l = (List.range 24).filter fun n =>
    (l.chan n).valid && (l.chan n).resume &&
      match s.channel? n with
      | some k => !(l.chan n).sameBody k.desc
      | none => true := by
  refine List.filter_congr fun n _ => ?_
  unfold carriesChannel
  cases hc : s.channel? n with
  | none => simp
  | some k => cases (l.chan n).valid <;> simp

/-! ### The end of the reading (R117, R121, R122) -/

section Reading
variable {s u : State} {c : MCycle} {l : Load}

/-- R114: a Loader read cycle of a load that is still READING. -/
theorem memoryCycleEnd_of_reading (hc : u.cycle = some c) (huse : c.use = .loader) (hwr : c.wr = false)
    (hl : u.loader = .reading l) : memoryCycleEnd u =
      if l.words.length < 353 then tableReadDone l (u.mem.word c.addr) (u.mem.errors c.addr) { u with cycle := none }
      else resumeReadDone l (u.mem.word c.addr) (u.mem.errors c.addr) { u with cycle := none } := by
  have hload : (u.cycleEnded c).loader = .reading l := hl
  have hend : memoryCycleEnd u = loaderReadDone (cycleWord u.mem c) (cycleErrors u.mem c) (u.cycleEnded c) := by
    simp only [memoryCycleEnd, hc, huse, State.cycleEnded]
  rw [hend, loaderReadDone, hload, cycleEnded_of_read hwr, cycleWord, cycleErrors, hwr]
  rfl

theorem finishReading_of_pass (h : l.validate (fittedWords s.msz) = none) :
    finishReading l s = { s with loader := .draining l }.mark (.part 1) := by
  rw [finishReading, h]

theorem finishReading_of_refused {code : ResultCode} {detail : Detail}
    (h : l.validate (fittedWords s.msz) = some (code, detail)) : finishReading l s = failLoad l code detail s := by
  rw [finishReading, h]

/-- R114, R115: the last table read, without an error. -/
theorem tableReadDone_of_last (h : l.words.length + 1 = 353) (w : Word) (s : State) {picked : List Nat}
    (hp : pickCandidates s { l with words := l.words ++ [w] } = picked) : tableReadDone l w 0 s =
      if picked = [] then finishReading { l with words := l.words ++ [w], cands := picked } s
      else { s with loader := .reading { l with words := l.words ++ [w], cands := picked } } := by
  have hlast : ¬ (l.words ++ [w]).length < tableReads := by
    rw [List.length_append]
    exact Nat.not_lt.2 (Nat.le_of_eq h.symm)
  subst hp
  unfold tableReadDone
  rw [if_neg (by simp)]
  exact if_neg hlast

/-- R115: S0 and then S3 of each candidate. -/
theorem Load.nextRead_of_resume (h : 353 ≤ l.words.length) {n : Nat} (hn : l.cands[l.resume.length / 2]? = some n) :
    l.nextRead = some (BitVec.ofNat 17 (if l.resume.length % 2 = 0 then 0x200 + 4 * n else 0x203 + 4 * n)) := by
  unfold Load.nextRead
  rw [if_neg (show ¬ l.words.length < tableReads from Nat.not_lt.2 h), hn]
  rfl

end Reading

/-- Settles O37: validation as the list of its checks, the fields, the candidates, and the reads that end the reading. -/
theorem theLastReadIsValidated : Obligations.TheLastReadIsValidated := by
  refine ⟨Load.validate_eq, RegionWords.fields, fun d => ?_, fun d => ?_, ?_⟩
  · exact ⟨rfl, portOfBit_eq_B _, rfl, rfl, rfl, rfl, rfl, rfl, rfl, rfl, rfl, rfl, rfl, rfl, rfl, rfl, rfl, rfl⟩
  · exact ⟨rfl, rfl, rfl, rfl, rfl, rfl, modeCode_eq _⟩
  · intro s c l u word ends l1 picked l2 hc huse hwr hl
    have hu : u = settle s := rfl
    clear_value u
    let x : State := { u with cycle := none }
    have hexec : exec .memoryCycleEnd s = .next (grant (noteReports u (if l.words.length < 353 then
        tableReadDone l word (u.mem.errors c.addr) x else resumeReadDone l word (u.mem.errors c.addr) x))) := by
      rw [exec_memoryCycleEnd hu, memoryCycleEnd_of_reading hc huse hwr hl]
    have hreading : ∀ l', noteReports u { x with loader := .reading l' } = { x with loader := .reading l' } :=
      fun l' => noteReports_of_fields rfl rfl rfl rfl
    have hends : ∀ l' : Load, l'.gen = l.gen → l'.start = l.start →
        exec .memoryCycleEnd s = .next (grant (noteReports u (finishReading l' x))) → ends l' := by
      intro l' hgen hstart hfinish
      refine ⟨fun hpass => ?_, fun code detail hfail => ?_⟩
      · rw [hfinish, finishReading_of_pass (s := x) hpass, noteReports_of_fields (by rfl) (by rfl) (by rfl) (by rfl)]
        exact ⟨_, rfl, rfl, marks_mark u (.part 1)⟩
      · rw [hfinish, finishReading_of_refused (s := x) hfail, ← hgen, ← hstart]
        exact ⟨_, rfl, loadFailed_failLoad u l' code detail⟩
    refine ⟨fun hlast hpass => ⟨pickCandidates_eq u l1, fun hnone => ?_, fun hsome => ?_⟩, fun hlong => ⟨fun n hn => ?_,
      fun hmore => ?_, fun hall => ?_⟩⟩
    · refine hends _ rfl rfl ?_
      rw [hexec, if_pos (by omega), hpass, tableReadDone_of_last hlast word x hnone, if_pos rfl]
    · rw [hexec, if_pos (by omega), hpass, tableReadDone_of_last (picked := picked) hlast word x rfl, if_neg hsome, hreading]
    · exact l2.nextRead_of_resume hlong hn
    · rw [hexec, if_neg (by omega), resumeReadDone, if_pos hmore, hreading]
    · refine hends _ rfl rfl ?_
      rw [hexec, if_neg (by omega), resumeReadDone, if_neg (Nat.not_lt.2 hall)]

end Sys2Proof.Machine

/-! SUPPORT. The words that the Mirror writes (10.3, 10.7, 10.9, R156, R157, R161, R181, R182), field by field. -/
namespace Sys2Proof.Machine

/-! ### The part block (10.3) -/

section PartBlock
variable (w : State)

/-- B1: installed generation, part state, Loader state, remembered-request flag; the rest is 0 (R181). -/
theorem wordB1_fields : (wordB1 w).extractLsb' 0 16 = w.installedGen ∧ (wordB1 w).extractLsb' 16 2 = w.partState.code ∧
    (wordB1 w).extractLsb' 18 2 = w.loader.code ∧ (wordB1 w).getLsbD 20 = w.remembered.isSome ∧
    (wordB1 w).extractLsb' 21 11 = 0 := by
  have hpack : ∀ (r : BitVec 1) (l p : BitVec 2) (g : BitVec 16),
      let b := (0#11 ++ r ++ l ++ p ++ g : BitVec (11 + 1 + 2 + 2 + 16))
      b.extractLsb' 0 16 = g ∧ b.extractLsb' 16 2 = p ∧ b.extractLsb' 18 2 = l ∧ b.getLsbD 20 = r.getLsbD 0 ∧
        b.extractLsb' 21 11 = 0#11 := by
    intro r l p g
    simp (disch := decide) only [BitVec.extractLsb'_append_eq_of_le, BitVec.extractLsb'_append_eq_of_add_le,
      BitVec.extractLsb'_eq_self, Nat.reduceSub, BitVec.getLsbD_append]
    simp
  obtain ⟨hgen, hpart, hloader, hflag, hrest⟩ :=
    hpack (BitVec.ofBool w.remembered.isSome) w.loader.code w.partState.code w.installedGen
  exact ⟨hgen, hpart, hloader, hflag.trans (by simp), hrest⟩

/-- B2: generation and result code of the last load that ended; the rest is 0 (R181). -/
theorem wordB2_fields : (wordB2 w).extractLsb' 0 16 = w.lastResult.gen ∧
    (wordB2 w).extractLsb' 16 8 = w.lastResult.code.code ∧ (wordB2 w).extractLsb' 24 8 = 0 := by
  have hpack : ∀ (c : BitVec 8) (g : BitVec 16), let b := (0#8 ++ c ++ g : BitVec (8 + 8 + 16))
      b.extractLsb' 0 16 = g ∧ b.extractLsb' 16 8 = c ∧ b.extractLsb' 24 8 = 0#8 := by
    intro c g
    simp (disch := decide) only [BitVec.extractLsb'_append_eq_of_le, BitVec.extractLsb'_append_eq_of_add_le,
      BitVec.extractLsb'_eq_self, Nat.reduceSub, and_self]
  exact hpack w.lastResult.code.code w.lastResult.gen

/-- B3: the detail of that result; the rest is 0 (R181). -/
theorem wordB3_fields : (wordB3 w).extractLsb' 0 12 = w.lastResult.detail.index ∧
    (wordB3 w).extractLsb' 12 3 = w.lastResult.detail.table.code ∧ (wordB3 w).extractLsb' 15 17 = 0 := by
  have hpack : ∀ (t : BitVec 3) (n : BitVec 12), let b := (0#17 ++ (t ++ n : BitVec (3 + 12)) : BitVec (17 + 15))
      b.extractLsb' 0 12 = n ∧ b.extractLsb' 12 3 = t ∧ b.extractLsb' 15 17 = 0#17 := by
    intro t n
    simp (disch := decide) only [BitVec.extractLsb'_append_eq_of_le, BitVec.extractLsb'_append_eq_of_add_le,
      BitVec.extractLsb'_eq_self, Nat.reduceSub]
    simp
  exact hpack w.lastResult.detail.table.code w.lastResult.detail.index

/-- R85: the fitted size is a number of Ki words that eight bits hold. -/
theorem fittedWords_eq (msz : BitVec 2) : 1024 * (BitVec.ofNat 8 (fittedWords msz / 1024)).toNat = fittedWords msz := by
  revert msz
  decide

/-- B4: fitted size, MSZ, configuring port, divisor; the rest is 0 (R181). -/
theorem wordB4_fields : 1024 * ((wordB4 w).extractLsb' 0 8).toNat = fittedWords w.msz ∧
    (wordB4 w).extractLsb' 8 2 = w.msz ∧ (wordB4 w).extractLsb' 10 2 = 0 ∧
    (wordB4 w).getLsbD 12 = (w.configPort == .B) ∧ (wordB4 w).extractLsb' 13 3 = 0 ∧
    (PrescalerLaw w → ((wordB4 w).extractLsb' 16 9).toNat = w.divisor) ∧ (wordB4 w).extractLsb' 25 7 = 0 := by
  have hpack : ∀ (d : BitVec 9) (c : BitVec 1) (m : BitVec 2) (f : BitVec 8),
      let b := (0#7 ++ d ++ 0#3 ++ c ++ 0#2 ++ m ++ f : BitVec (7 + 9 + 3 + 1 + 2 + 2 + 8))
      b.extractLsb' 0 8 = f ∧ b.extractLsb' 8 2 = m ∧ b.extractLsb' 10 2 = 0#2 ∧ b.getLsbD 12 = c.getLsbD 0 ∧
        b.extractLsb' 13 3 = 0#3 ∧ b.extractLsb' 16 9 = d ∧ b.extractLsb' 25 7 = 0#7 := by
    intro d c m f
    simp (disch := decide) only [BitVec.extractLsb'_append_eq_of_le, BitVec.extractLsb'_append_eq_of_add_le,
      BitVec.extractLsb'_eq_self, Nat.reduceSub, BitVec.getLsbD_append]
    simp
  obtain ⟨hfitted, hmsz, hlow, hconfig, hmid, hdivisor, hhigh⟩ :=
    hpack (BitVec.ofNat 9 w.divisor) (portBit w.configPort) w.msz (BitVec.ofNat 8 (fittedWords w.msz / 1024))
  refine ⟨?_, hmsz, hlow, hconfig.trans (by cases w.configPort <;> rfl), hmid, fun ⟨_, hle, _⟩ => ?_, hhigh⟩
  · exact (congrArg (fun b : BitVec 8 => 1024 * b.toNat) hfitted).trans (fittedWords_eq w.msz)
  · exact (congrArg BitVec.toNat hdivisor).trans ((BitVec.toNat_ofNat _ _).trans (Nat.mod_eq_of_lt (by omega)))

end PartBlock

/-! ### Report and head words (R144, R156, R157, R161) -/

theorem reportWord_fields (set : BitVec 12) (code : BitVec 4) (seq : BitVec 16) :
    (reportWord set code seq).extractLsb' 0 12 = set ∧ (reportWord set code seq).extractLsb' 12 4 = code ∧
    (reportWord set code seq).extractLsb' 16 16 = seq := by
  have hpack : let b := (seq ++ code ++ set : BitVec (16 + 4 + 12))
      b.extractLsb' 0 12 = set ∧ b.extractLsb' 12 4 = code ∧ b.extractLsb' 16 16 = seq := by
    simp (disch := decide) only [BitVec.extractLsb'_append_eq_of_le, BitVec.extractLsb'_append_eq_of_add_le,
      BitVec.extractLsb'_eq_self, Nat.reduceSub, and_self]
  exact hpack

/-- R161: the lowest-numbered cause in both sets. -/
theorem priorityCode_of_lowest {pending enable : BitVec 12} {n : Nat} (hn : n < 12)
    (h : (pending &&& enable).getLsbD n = true) (hlow : ∀ i, i < n → (pending &&& enable).getLsbD i = false) :
    priorityCode pending enable = BitVec.ofNat 4 n := by
  have hfind : (List.range 12).find? (fun n => (pending &&& enable).getLsbD n) = some n := by
    rw [List.find?_range_eq_some]
    exact ⟨h, List.mem_range.2 hn, fun i hi => by rw [hlow i hi]; rfl⟩
  rw [priorityCode, hfind]

/-- R161: "15 when there is none". -/
theorem priorityCode_of_none {pending enable : BitVec 12}
    (h : ∀ n, n < 12 → (pending &&& enable).getLsbD n = false) : priorityCode pending enable = 15 := by
  have hfind : (List.range 12).find? (fun n => (pending &&& enable).getLsbD n) = none :=
    List.find?_eq_none.2 fun n hn => by rw [h n (List.mem_range.1 hn)]; decide
  rw [priorityCode, hfind]

theorem headWord_fields (j : Journal) : (headWord j).extractLsb' 0 7 = j.c ∧ (headWord j).extractLsb' 7 9 = 0 ∧
    (headWord j).extractLsb' 16 16 = j.lost := by
  have hpack : let b := (j.lost ++ 0#9 ++ j.c : BitVec (16 + 9 + 7))
      b.extractLsb' 0 7 = j.c ∧ b.extractLsb' 7 9 = 0#9 ∧ b.extractLsb' 16 16 = j.lost := by
    simp (disch := decide) only [BitVec.extractLsb'_append_eq_of_le, BitVec.extractLsb'_append_eq_of_add_le,
      BitVec.extractLsb'_eq_self, Nat.reduceSub, and_self]
  exact hpack

/-- R154: bit n stands for cause n. -/
theorem getLsbD_causeIf (c : Cause) (b : Bool) (n : Nat) :
    (causeIf c b).getLsbD n = true ↔ n = c.number ∧ b = true := by
  have hnumber : c.number < 12 := by cases c <;> decide
  cases b with
  | false => simp [causeIf]
  | true =>
    simp only [causeIf, if_true, Cause.bit, BitVec.getLsbD_shiftLeft, BitVec.getLsbD_one, Bool.and_eq_true,
      Bool.not_eq_true', decide_eq_true_eq, decide_eq_false_iff_not, and_true]
    omega

theorem anyHalted_iff (s : State) (p : Port) : anyHalted s p = true ↔
    ∃ k c, s.channel? k = some c ∧ c.halted = true ∧ c.desc.producer = p := by
  have hat : ∀ n, (match s.channel? n with
      | some c => c.halted && c.desc.producer == p
      | none => false) = true ↔ ∃ c, s.channel? n = some c ∧ c.halted = true ∧ c.desc.producer = p := fun n => by
    cases s.channel? n <;> simp
  unfold anyHalted
  rw [List.any_eq_true]
  constructor
  · rintro ⟨n, -, h⟩
    exact ⟨n, (hat n).1 h⟩
  · rintro ⟨n, c, hc, h⟩
    exact ⟨n, mem_indices.2 (State.channel?_lt hc), (hat n).2 ⟨c, hc, h⟩⟩

theorem consumer_eq_iff (d : ChanDesc) (p : Port) : d.consumer = p ↔ d.producer = p.other := by
  unfold ChanDesc.consumer
  cases d.producer <;> cases p <;> decide

theorem anyStale_iff (s : State) (p : Port) : anyStale s p = true ↔
    ∃ k c, s.channel? k = some c ∧ c.cond = .stale ∧ c.desc.producer = p.other := by
  have hat : ∀ n, (match s.channel? n with
      | some c => c.cond == .stale && c.desc.consumer == p
      | none => false) = true ↔ ∃ c, s.channel? n = some c ∧ c.cond = .stale ∧ c.desc.producer = p.other := fun n => by
    cases s.channel? n <;> simp [consumer_eq_iff]
  unfold anyStale
  rw [List.any_eq_true]
  constructor
  · rintro ⟨n, -, h⟩
    exact ⟨n, (hat n).1 h⟩
  · rintro ⟨n, c, hc, h⟩
    exact ⟨n, mem_indices.2 (State.channel?_lt hc), (hat n).2 ⟨c, hc, h⟩⟩

/-- R156, R157: the pending set, cause by cause. -/
theorem getLsbD_pendingSet (w : State) (p : Port) (n : Nat) : (pendingSet w p).getLsbD n = true ↔
    (w.attention.get p).latched.getLsbD n = true ∨ (n = 0 ∧ w.partState = .holdover) ∨
    (n = 4 ∧ ∃ k c, w.channel? k = some c ∧ c.halted = true ∧ c.desc.producer = p) ∨
    (n = 5 ∧ ∃ k c, w.channel? k = some c ∧ c.cond = .stale ∧ c.desc.producer = p.other) ∨
    (n = 11 ∧ (w.journals.get p).h ≠ (w.journals.get p).rd) := by
  simp only [pendingSet, levelSet, BitVec.getLsbD_or, Bool.or_eq_true, getLsbD_causeIf, anyHalted_iff, anyStale_iff,
    journalHolds, bne_iff_ne, beq_iff_eq, Cause.number, or_assoc]

/-! ### Status blocks (10.7, R34, R182) -/

/-- S0: the update count's place, the buffer indices, the condition, HALTED; the rest is 0 (R182). -/
theorem wordS0_fields (c : Channel) (n : BitVec 8) : let s0 := wordS0 c n
    s0.extractLsb' 0 8 = n ∧ s0.extractLsb' 8 3 = indexCode c.live ∧ s0.extractLsb' 12 3 = indexCode c.pendBuf ∧
    s0.extractLsb' 16 3 = fillingCode c.pass ∧ s0.extractLsb' 20 3 = indexCode c.held ∧ s0.extractLsb' 24 2 = c.cond.code ∧
    s0.getLsbD 26 = c.halted ∧ s0.getLsbD 11 = false ∧ s0.getLsbD 15 = false ∧ s0.getLsbD 19 = false ∧
    s0.getLsbD 23 = false ∧ s0.extractLsb' 27 5 = 0 := by
  have hpack : ∀ (h : BitVec 1) (k : BitVec 2) (e f p v : BitVec 3), let s0 :=
      (0#5 ++ h ++ k ++ 0#1 ++ e ++ 0#1 ++ f ++ 0#1 ++ p ++ 0#1 ++ v ++ n : BitVec (5 + 1 + 2 + 1 + 3 + 1 + 3 + 1 + 3 + 1 + 3 + 8))
      s0.extractLsb' 0 8 = n ∧ s0.extractLsb' 8 3 = v ∧ s0.extractLsb' 12 3 = p ∧ s0.extractLsb' 16 3 = f ∧
      s0.extractLsb' 20 3 = e ∧ s0.extractLsb' 24 2 = k ∧ s0.getLsbD 26 = h.getLsbD 0 ∧ s0.getLsbD 11 = false ∧
      s0.getLsbD 15 = false ∧ s0.getLsbD 19 = false ∧ s0.getLsbD 23 = false ∧ s0.extractLsb' 27 5 = 0#5 := by
    intro h k e f p v
    refine ⟨?_, ?_, ?_, ?_, ?_, ?_, ?_, ?_, ?_, ?_, ?_, ?_⟩
    all_goals simp (disch := decide) only [BitVec.extractLsb'_append_eq_of_le, BitVec.extractLsb'_append_eq_of_add_le,
      BitVec.extractLsb'_eq_self, Nat.reduceSub, BitVec.getLsbD_append, Nat.reduceLT, if_true, if_false, BitVec.getLsbD_zero]
  obtain ⟨hcount, hlive, hpend, hfill, hheld, hcond, hhalted, hrest⟩ := hpack (BitVec.ofBool c.halted) c.cond.code
    (indexCode c.held) (fillingCode c.pass) (indexCode (c.pend.map (·.buf))) (indexCode c.live)
  exact ⟨hcount, hlive, hpend, hfill, hheld, hcond, hhalted.trans (by simp), hrest⟩

/-- 10.7: the filling index is that of the target buffer, 6 for SHED, 7 for no pass. -/
theorem fillingCode_eq (c : Channel) :
    fillingCode c.pass = if c.pass.isSome && c.filling.isNone then 6 else indexCode c.filling := by
  unfold fillingCode Channel.filling
  cases c.pass with
  | none => rfl
  | some q =>
    change fillingCode (some q) = if q.target.buffer?.isNone = true then 6 else indexCode q.target.buffer?
    unfold fillingCode
    obtain ht | ⟨b, ht⟩ : q.target = .shed ∨ ∃ b, q.target = .buffer b := by cases q.target <;> simp
    · simp only [ht]
      rfl
    · simp only [ht]
      rfl

/-- The pin of a group is open and tainted (R49). -/
def Group.tainted (g : Group) : Bool :=
  match g.pin with
  | some p => p.tainted
  | none => false

/-- G0: the update count's place, PINNED, TAINTED, GATHERING; the rest is 0 (R182). -/
theorem wordG0_fields (g : Group) (n : BitVec 8) : (wordG0 g n).extractLsb' 0 8 = n ∧
    (wordG0 g n).getLsbD 8 = g.pin.isSome ∧ (wordG0 g n).getLsbD 9 = g.tainted ∧
    (wordG0 g n).getLsbD 10 = (g.desc.mode == some .gathered && g.gather.isSome) ∧ (wordG0 g n).extractLsb' 11 21 = 0 := by
  have hpack : ∀ a t p : BitVec 1, let b := (0#21 ++ a ++ t ++ p ++ n : BitVec (21 + 1 + 1 + 1 + 8))
      b.extractLsb' 0 8 = n ∧ b.getLsbD 8 = p.getLsbD 0 ∧ b.getLsbD 9 = t.getLsbD 0 ∧ b.getLsbD 10 = a.getLsbD 0 ∧
        b.extractLsb' 11 21 = 0#21 := by
    intro a t p
    simp (disch := decide) only [BitVec.extractLsb'_append_eq_of_le, BitVec.extractLsb'_append_eq_of_add_le,
      BitVec.extractLsb'_eq_self, Nat.reduceSub, BitVec.getLsbD_append]
    simp
  obtain ⟨hcount, hpinned, htainted, hgathering, hrest⟩ := hpack
    (BitVec.ofBool (g.desc.mode == some .gathered && g.gather.isSome)) (BitVec.ofBool g.tainted) (BitVec.ofBool g.pin.isSome)
  exact ⟨hcount, hpinned.trans (by simp), htainted.trans (by simp), hgathering.trans (by simp), hrest⟩

end Sys2Proof.Machine

/-! SUPPORT. The choice of a Mirror item (R133) and a Mirror grant (R132, R134, R161). -/
namespace Sys2Proof.Machine

/-! ### The choice of an item (R133) -/

/-- A list that is not empty holds a member of least measure. -/
theorem exists_least {α : Type} (rank : α → Nat) {l : List α} (h : l ≠ []) : ∃ x ∈ l, ∀ y ∈ l, rank x ≤ rank y := by
  cases hx : l.argmin rank with
  | none => exact absurd (List.argmin_eq_none.1 hx) h
  | some x => exact ⟨x, List.argmin_mem hx, fun y hy => List.le_of_mem_argmin hy hx⟩

/-- R133: how far a slot lies from the completed index of its journal; the other items have no place in a ring. -/
def itemPlace (s : State) : MirrorItem → Nat
  | .slot p k => ringPlace s p k
  | _ => 0

section Choice
variable {s : State}

/-- R133: a slot that may be started lies before the other dirty slots of its journal. -/
theorem slotInOrder_iff {i : MirrorItem} : slotInOrder s i = true ↔
    ∀ p k k', i = .slot p k → .slot p k' ∈ s.mirror.dirty → ringPlace s p k ≤ ringPlace s p k' := by
  cases i with
  | slot p k =>
    unfold slotInOrder
    rw [List.all_eq_true]
    constructor
    · rintro h _ _ k' ⟨⟩ hk'
      simpa using h _ hk'
    · intro h j hj
      cases j with
      | slot q m =>
        by_cases hq : q = p
        · subst hq
          simpa using h q k m rfl hj
        · simp [hq]
      | _ => rfl
  | _ => exact ⟨fun _ _ _ _ h _ => (nomatch h), fun _ => rfl⟩

/-- R133: where an item is dirty, some dirty item is allowed: of least place among all. -/
theorem allowedItems_ne_nil (h : s.mirror.dirty ≠ []) : allowedItems s ≠ [] := by
  obtain ⟨i, hi, hmin⟩ := exists_least (itemPlace s) h
  refine List.ne_nil_of_mem (List.mem_filter.2 ⟨hi, slotInOrder_iff.2 fun p k k' he hk' => ?_⟩)
  subst he
  exact hmin _ hk'

/-- R133: where the record of passes holds no circle, some allowed item may be started: of least rank among them. -/
theorem startable_ne_nil (ho : MirrorOrderLaw s) (h : s.mirror.dirty ≠ []) : startable s ≠ [] := by
  obtain ⟨rank, hrank⟩ := ho
  obtain ⟨j, hj, hmin⟩ := exists_least rank (allowedItems_ne_nil h)
  refine List.ne_nil_of_mem (List.mem_filter.2 ⟨hj, List.all_eq_true.2 fun i hi => ?_⟩)
  have hnot : (i, j) ∉ s.mirror.passed := fun hmem => Nat.not_lt.2 (hmin i hi) (hrank _ hmem)
  simp [hnot]

theorem pickFrom_ne_none {α : Type} (k : Nat) {l : List α} (h : l ≠ []) : ∃ x, pickFrom k l = some x := by
  match l with
  | [x] => exact ⟨x, rfl⟩
  | x :: y :: rest =>
    have hlt : k % ((y :: rest).length + 1) < (x :: y :: rest).length := Nat.mod_lt k (Nat.succ_pos _)
    exact ⟨_, List.getElem?_eq_getElem hlt⟩

/-- R133: where an item is dirty, one is chosen. -/
theorem exists_chosenItem (ho : MirrorOrderLaw s) (h : s.mirror.dirty ≠ []) :
    ∃ i, chosenItem s = some i ∧ i ∈ s.mirror.dirty ∧ slotInOrder s i = true := by
  obtain ⟨i, hi⟩ := pickFrom_ne_none (Config.mirrorPick s.freeCtr) (startable_ne_nil ho h)
  have hallowed : i ∈ allowedItems s := List.mem_of_mem_filter (pickFrom_mem hi)
  exact ⟨i, hi, (List.mem_filter.1 hallowed).1, (List.mem_filter.1 hallowed).2⟩

/-- R132, R133: with the M port free, the item served is the one in flight, which has cycles left, or a dirty one, whose content
is captured now. -/
theorem exists_servedFlight (hf : FlightLaw s) (ho : MirrorOrderLaw s) (hc : s.cycle = none) (hw : mirrorWants s = true) :
    ∃ f, servedFlight s = some f ∧ ((s.mirror.flight = some f ∧ f.granted ≠ 0) ∨
      (s.mirror.flight = none ∧ f.item ∈ s.mirror.dirty ∧ slotInOrder s f.item = true ∧ f = newFlight s f.item)) := by
  cases hfl : s.mirror.flight with
  | some f =>
    obtain ⟨hpos, hle, hlast⟩ := hf f hfl
    have hleft : f.granted < f.item.cycles := lt_of_le_of_ne hle fun e => by
      obtain ⟨c, hc', -⟩ := hlast e
      cases hc.symm.trans hc'
    refine ⟨f, ?_, .inl ⟨rfl, by omega⟩⟩
    simp only [servedFlight, hfl, if_pos hleft]
  | none =>
    have hdirty : s.mirror.dirty ≠ [] := by
      rcases mirrorWants_iff.1 hw with h | ⟨f, h, -⟩
      · exact h
      · cases hfl.symm.trans h
    obtain ⟨i, hi, hmem, horder⟩ := exists_chosenItem ho hdirty
    refine ⟨newFlight s i, ?_, .inr ⟨rfl, hmem, horder, rfl⟩⟩
    simp only [servedFlight, hfl, hi, Option.map_some]

end Choice

/-! ### A grant to the Mirror (R132, R134, R161) -/

section Grant
variable {s : State} {f : Flight}

/-- R100: an Engine grant that the Loader does not use serves the Mirror. -/
theorem grant_to_mirror (hg : granted s = some .engine) (hl : loaderNext s = none) (hf : servedFlight s = some f) :
    (grant s).cycle = some (flightCycle s.mirror f) ∧ (grant s).mirror = mirrorGranted s f ∧
      (grant s).attention = attentionGranted s f := by
  have hflight : engineFlight s = some f := by rw [engineFlight, hl]; exact hf
  refine ⟨?_, ?_, ?_⟩
  · rw [grant_cycle, onGrant_of_some hg]
    simp only [cycleFor, hl, hf, Option.map_some]
  · rw [grant_mirror, onGrant_of_some hg]
    simp only [mirrorAfter, hflight]
  · rw [grant_attention, onGrant_of_some hg]
    simp only [attentionAfter, hflight]

theorem dirty_advance (m : Mirror) (i : MirrorItem) : (m.advance i).dirty = m.dirty := by
  cases i <;> rfl

/-- R132: the item started is no longer dirty. -/
theorem mem_dirty_mirrorGranted (s : State) (f : Flight) (i : MirrorItem) :
    i ∈ (mirrorGranted s f).dirty ↔ i ∈ s.mirror.dirty ∧ (f.granted = 0 → i ≠ f.item) := by
  have hdirty : (mirrorGranted s f).dirty = (if f.granted = 0 then startItem s f.item s.mirror else s.mirror).dirty := by
    unfold mirrorGranted
    dsimp only
    split
    · exact dirty_advance _ _
    · rfl
  rw [hdirty]
  split
  · rename_i h
    simp [startItem, h]
  · rename_i h
    simp [h]

/-- One of 24 update counts advances, and no other. -/
theorem getD_setIfInBounds_succ {n : Nat} (hn : n < 24) (v : Vector (BitVec 8) 24) (k : Nat) :
    ((v.setIfInBounds n ((v[n]?).getD 0 + 1))[k]?).getD 0 = if k = n then (v[k]?).getD 0 + 1 else (v[k]?).getD 0 := by
  by_cases h : k = n
  · subst h
    simp [hn]
  · simp [Ne.symm h, h]

/-- R134: the update count of a block in the area advances by one, and no other. -/
theorem count_advance {m : Mirror} {j : MirrorItem} (hb : j.isBlock = true) (ha : j.inArea) (i : MirrorItem) :
    (m.advance j).count i = if i = j then m.count i + 1 else m.count i := by
  cases j with
  | chanBlock n =>
    cases i with
    | chanBlock k =>
      simp only [MirrorItem.chanBlock.injEq]
      exact getD_setIfInBounds_succ ha m.chanCount k
    | _ => rfl
  | groupBlock n =>
    cases i with
    | groupBlock k =>
      simp only [MirrorItem.groupBlock.injEq]
      exact getD_setIfInBounds_succ ha m.groupCount k
    | _ => rfl
  | _ => cases hb

/-- R134: the update counts after a grant. -/
theorem count_mirrorGranted (ha : f.item.inArea) (i : MirrorItem) : (mirrorGranted s f).count i =
    if i = f.item ∧ f.item.countsAt f.granted = true then s.mirror.count i + 1 else s.mirror.count i := by
  have hstart : ∀ j, (if f.granted = 0 then startItem s f.item s.mirror else s.mirror).count j = s.mirror.count j := by
    intro j
    split
    · cases j <;> rfl
    · rfl
  unfold mirrorGranted
  cases hc : f.item.countsAt f.granted with
  | false =>
    simp only [Bool.false_eq_true, if_false, and_false]
    exact hstart i
  | true =>
    have hblock : f.item.isBlock = true := (Bool.and_eq_true_iff.1 hc).1
    simp only [if_true, and_true]
    exact (count_advance hblock ha i).trans (by rw [hstart])

/-- R161: the report sequence advances at the grant of a report word alone. -/
theorem repSeq_attentionGranted (s : State) (f : Flight) (p : Port) : ((attentionGranted s f).get p).repSeq =
    if f.item = .report p then (s.attention.get p).repSeq + 1 else (s.attention.get p).repSeq := by
  unfold attentionGranted
  cases f.item with
  | report q =>
    by_cases h : p = q
    · subst h
      simp
    · simp [Both.get_modify_of_ne _ h, Ne.symm h]
  | _ => simp

end Grant

/-! ### The statement -/

/-- R97, R131, R134: the cycle of an item's next word. -/
theorem flightCycle_eq (m : Mirror) (f : Flight) :
    let last : Bool := f.granted + 1 == f.item.cycles
    let counts : Bool := f.item.isBlock && (f.granted == 0 || last)
    let k : Nat := if f.item.isBlock && last then 0 else f.granted
    flightCycle m f =
      { use := .mirror
        addr := BitVec.ofNat 17 (f.item.base + k)
        wr := true
        lanes := 0xF
        data := f.content.getD k 0 ||| (if counts then (m.count f.item + 1).setWidth 32 else 0) } := by
  intro last counts k
  have hdata : flightWord m f = f.content.getD k 0 ||| (if counts then (m.count f.item + 1).setWidth 32 else 0) := by
    change (if counts then f.content.getD k 0 ||| _ else f.content.getD k 0) = _
    cases counts
    · exact (BitVec.or_zero).symm
    · rfl
  rw [flightCycle, hdata]
  rfl

/-- The content of a channel's status block (10.7). -/
theorem chanBlock_eq (c : Channel) : chanBlock c = [wordS0 c 0, c.pubCount, c.lastPub, c.sig.setWidth 32] := by
  have hsig : (0#16 ++ c.sig : BitVec (16 + 16)) = c.sig.setWidth 32 :=
    (BitVec.setWidth_eq_append (by decide)).symm
  exact congrArg (fun w : Word => [wordS0 c 0, c.pubCount, c.lastPub, w]) hsig

/-- Settles O60: the item served and what its grant changes, then the words of each item field by field. -/
theorem aMirrorGrantWritesOneItem : Obligations.AMirrorGrantWritesOneItem := by
  refine ⟨?_, fun n => ⟨rfl, rfl, rfl, rfl, rfl, rfl, rfl, rfl, rfl⟩, ⟨rfl, rfl, rfl, rfl⟩, fun p k => ?_, fun w => ?_,
    fun w p => ?_, getLsbD_pendingSet, fun w p => ⟨_, rfl, headWord_fields _⟩, fun w p k r hr => ?_, fun w n c hc => ?_,
    fun w n g hg => ?_⟩
  · intro w hrst hcycle howed hwaits hengine hloader hflight horder hdirty hitem
    have hgranted : granted w = some .engine := by
      obtain ⟨r, hr⟩ := exists_winner hwaits
      have hwinner := (granted_of_free hrst hcycle howed).trans hr
      have hlast : (grant w).lastGranted = r := onGrant_of_some hwinner _ _
      rw [hwinner, ← hlast, hengine]
    have hwants : mirrorWants w = true := by
      have hor : ((loaderNext w).isSome || mirrorWants w) = true := hwaits
      rwa [hloader] at hor
    obtain ⟨f, hserved, hwhich⟩ := exists_servedFlight hflight horder hcycle hwants
    obtain ⟨hcyc, hmirror, hattention⟩ := grant_to_mirror hgranted hloader hserved
    have harea : f.item.inArea := hwhich.elim (fun h => hitem f h.1) fun h => hdirty _ h.2.1
    refine ⟨f, ?_, ?_, ?_, fun i => ?_, fun i => ?_, fun p k k' hzero he hk' => ?_, fun p => ?_⟩
    · exact hwhich.imp (fun h => h.1) fun ⟨hnone, hmem, _, hnew⟩ => ⟨hnone, hmem, hnew⟩
    · rw [hmirror]
      rfl
    · rw [hcyc, flightCycle_eq]
    · rw [hmirror]
      exact count_mirrorGranted harea i
    · rw [hmirror]
      exact mem_dirty_mirrorGranted w f i
    · rcases hwhich with ⟨-, hpos⟩ | ⟨-, -, hslot, -⟩
      · exact absurd hzero hpos
      · exact slotInOrder_iff.1 hslot p k k' he hk'
    · rw [hattention]
      exact repSeq_attentionGranted w f p
  · cases p <;> exact ⟨rfl, rfl, rfl, rfl, rfl, rfl, rfl⟩
  · obtain ⟨hgen, hpart, hloader, hflag, hrest⟩ := wordB1_fields w
    obtain ⟨hgen', hcode, hrest'⟩ := wordB2_fields w
    obtain ⟨hindex, htable, hrest''⟩ := wordB3_fields w
    refine ⟨_, _, _, _, rfl, rfl, rfl, rfl, rfl, hgen, hpart.trans ?_, hloader.trans ?_, hflag, hrest, hgen',
      hcode.trans ?_, hrest', hindex, htable.trans ?_, hrest'', wordB4_fields w⟩
    · cases w.partState <;> rfl
    · cases w.loader <;> rfl
    · cases w.lastResult.code <;> rfl
    · cases w.lastResult.detail.table <;> rfl
  · obtain ⟨hset, hcode, hseq⟩ := reportWord_fields (pendingSet w p)
      (priorityCode (pendingSet w p) (w.attention.get p).enable) ((w.attention.get p).repSeq + 1)
    refine ⟨_, rfl, hset, hseq, fun n hn hlow => ?_, fun hnone => ?_⟩
    · exact hcode.trans (priorityCode_of_lowest n.isLt hn fun i hi => hlow ⟨i, hi.trans n.isLt⟩ hi)
    · exact hcode.trans (priorityCode_of_none fun n hn => hnone ⟨n, hn⟩)
  · simp only [itemContent, hr, Option.getD_some, Record.words]
  · obtain ⟨hcount, hlive, hpend, hfill, hheld, hcond, hrest⟩ := wordS0_fields c 0
    have hcontent : itemContent w (.chanBlock n) = chanBlock c := by simp only [itemContent, hc]
    refine ⟨wordS0 c 0, hcontent.trans (chanBlock_eq c), hcount, hlive, hpend, hfill.trans (fillingCode_eq c), hheld,
      hcond.trans ?_, hrest⟩
    cases c.cond <;> rfl
  · obtain ⟨hcount, hpinned, htainted, hgathering, hrest⟩ := wordG0_fields g 0
    have hcontent : itemContent w (.groupBlock n) = groupBlock g := by simp only [itemContent, hg]
    refine ⟨wordG0 g 0, wordG1 g, hcontent, hcount, hpinned, fun q hq => htainted.trans ?_, fun hno => htainted.trans ?_,
      fun hmode => hgathering.trans ?_, hrest, fun hmode => ?_, fun hmode => ?_, fun hmode => ⟨hgathering.trans ?_, ?_⟩⟩
    · simp only [Group.tainted, hq]
    · simp only [Group.tainted, hno]
    · rw [beq_eq_false_iff_ne.2 hmode, Bool.false_and]
    · simp only [wordG1, hmode]
      cases g.pin <;> rfl
    · simp only [wordG1, hmode]
      cases g.nextFrame <;> simp
    · simp [hmode]
    · simp only [wordG1, hmode]
      cases g.gather <;> rfl

end Sys2Proof.Machine

/-! SUPPORT. What an offer does to a journal (R137 to R139, R142): how far W advances, which slots that writes, and which items
it marks. -/
namespace Sys2Proof.Machine

section Offer
variable {j j' : Journal} {r : Record} {now : Word}

/-! ### The four cases of an offer (R138, R139) -/

theorem Journal.offer_of_room (hlost : j.lost = 0) (hfree : 1 ≤ j.free) : j.offer r now = j.put r := by
  rw [Journal.offer, if_pos hlost, if_pos hfree]

theorem Journal.offer_of_full (hlost : j.lost = 0) (hfree : j.free = 0) :
    j.offer r now = { j with lost := 1, lossTime := now } := by
  rw [Journal.offer, if_pos hlost, if_neg (by omega)]

theorem Journal.offer_behind_gap (hlost : j.lost ≠ 0) (hfree : 2 ≤ j.free) :
    j.offer r now = { (j.put (gapRecord j.lost j.lossTime now)) with lost := 0 }.put r := by
  rw [Journal.offer, if_neg hlost, if_pos hfree]

theorem Journal.offer_of_lost (hlost : j.lost ≠ 0) (hfree : j.free < 2) :
    j.offer r now = { j with lost := if j.lost = 0xFFFF then 0xFFFF else j.lost + 1 } := by
  rw [Journal.offer, if_neg hlost, if_neg (by omega)]
  split
  · rename_i h
    rw [← h]
  · rfl

/-! ### The slots written (R142) -/

/-- The slots written lie from the old W up to the new. -/
theorem mem_slotsWritten {k : BitVec 7} : k ∈ slotsWritten j j' ↔ k - j.w < j'.w - j.w := by
  unfold slotsWritten
  rw [List.mem_map]
  constructor
  · rintro ⟨i, hi, rfl⟩
    have hlt := List.mem_range.1 hi
    rw [BitVec.add_comm, BitVec.add_sub_cancel, BitVec.lt_def, BitVec.toNat_ofNat]
    exact lt_of_le_of_lt (Nat.mod_le _ _) hlt
  · intro h
    refine ⟨(k - j.w).toNat, List.mem_range.2 h, ?_⟩
    rw [BitVec.ofNat_toNat, BitVec.setWidth_eq, BitVec.add_comm, BitVec.sub_add_cancel]

theorem slotsWritten_of_same (h : j'.w = j.w) : slotsWritten j j' = [] := by
  rw [slotsWritten, h, BitVec.sub_self]
  rfl

theorem slotsWritten_of_one (h : j'.w = j.w + 1) : slotsWritten j j' = [j.w] := by
  rw [slotsWritten, h, BitVec.add_comm, BitVec.add_sub_cancel]
  exact congrArg (fun k : BitVec 7 => [k]) (BitVec.add_zero _)

theorem slotsWritten_of_two (h : j'.w = j.w + 2) : slotsWritten j j' = [j.w, j.w + 1] := by
  rw [slotsWritten, h, BitVec.add_comm, BitVec.add_sub_cancel]
  exact congrArg (fun k : BitVec 7 => [k, j.w + 1]) (BitVec.add_zero _)

/-- R140: the head word is marked where W or L has changed. -/
theorem offerMarks_of_changed (p : Port) (h : j.w ≠ j'.w ∨ j.lost ≠ j'.lost) :
    offerMarks p j j' = (slotsWritten j j').map (.slot p) ++ [.head p] := by
  rw [offerMarks, if_pos h]

theorem offerMarks_of_same (p : Port) (hw : j'.w = j.w) (hl : j'.lost = j.lost) : offerMarks p j j' = [] := by
  rw [offerMarks, slotsWritten_of_same hw, if_neg (by simp [hw, hl])]
  rfl

/-! ### How far W advances (R137) -/

theorem w_offer_behind_gap (hlost : j.lost ≠ 0) (hfree : 2 ≤ j.free) : (j.offer r now).w = j.w + 2 := by
  rw [Journal.offer_behind_gap hlost hfree]
  exact BitVec.add_assoc j.w 1 1

/-- R138, R139: an offer writes free slots alone. -/
theorem offer_advance_le_free (j : Journal) (r : Record) (now : Word) : ((j.offer r now).w - j.w).toNat ≤ j.free := by
  have hstay : (j.w - j.w).toNat ≤ j.free := by
    rw [BitVec.sub_self]
    exact Nat.zero_le _
  by_cases hlost : j.lost = 0
  · by_cases hfree : 1 ≤ j.free
    · rw [Journal.offer_of_room hlost hfree]
      change (j.w + 1 - j.w).toNat ≤ j.free
      rwa [BitVec.add_comm, BitVec.add_sub_cancel]
    · rw [Journal.offer_of_full hlost (by omega)]
      exact hstay
  · by_cases hfree : 2 ≤ j.free
    · rw [w_offer_behind_gap hlost hfree, BitVec.add_comm, BitVec.add_sub_cancel]
      exact hfree
    · rw [Journal.offer_of_lost hlost (by omega)]
      exact hstay

end Offer

/-! ### The loss that is raised (R138) -/

theorem lossBegins_offer (j : Journal) (r : Record) (now : Word) :
    lossBegins j (j.offer r now) = true ↔ j.lost = 0 ∧ j.free = 0 := by
  unfold lossBegins
  by_cases hlost : j.lost = 0
  · by_cases hfree : 1 ≤ j.free
    · rw [Journal.offer_of_room hlost hfree]
      simp [Journal.put, hlost, Nat.ne_of_gt hfree]
    · have hfull : j.free = 0 := by omega
      rw [Journal.offer_of_full hlost hfull]
      simp [hlost, hfull]
  · exact ⟨fun h => absurd (beq_iff_eq.1 (Bool.and_eq_true_iff.1 h).1) hlost, fun h => absurd h.1 hlost⟩

theorem offer_attention (s : State) (p : Port) (r : Record) : (s.offer p r).attention =
    if (s.journals.get p).lost = 0 ∧ (s.journals.get p).free = 0 then (s.raise p .journalLost).attention
    else s.attention :=
  if_congr (lossBegins_offer _ r s.clock) rfl rfl

end Sys2Proof.Machine

/-! SUPPORT. The records of the journals field by field (R149, R180), and an offer as its statement says it. -/
namespace Sys2Proof.Machine

/-! ### The fields of a record (10.8) -/

theorem mkRecord_w0_fields (k : Kind) (subject : Nat) (buf : Option Nat) (flags : BitVec 12) (arg timeA timeB : Word) :
    let w := (mkRecord k subject buf flags arg timeA timeB).w0
    w.extractLsb' 0 8 = k.code ∧ w.extractLsb' 8 5 = BitVec.ofNat 5 subject ∧ w.extractLsb' 13 3 = 0 ∧
    w.extractLsb' 16 3 = indexCode buf ∧ w.extractLsb' 19 1 = 0 ∧ w.extractLsb' 20 12 = flags := by
  have hpack : ∀ (code : BitVec 8) (n : BitVec 5) (b : BitVec 3),
      let w := (flags ++ 0#1 ++ b ++ 0#3 ++ n ++ code : BitVec (12 + 1 + 3 + 3 + 5 + 8))
      w.extractLsb' 0 8 = code ∧ w.extractLsb' 8 5 = n ∧ w.extractLsb' 13 3 = 0#3 ∧ w.extractLsb' 16 3 = b ∧
      w.extractLsb' 19 1 = 0#1 ∧ w.extractLsb' 20 12 = flags := by
    intro code n b
    simp (disch := decide) only [BitVec.extractLsb'_append_eq_of_le, BitVec.extractLsb'_append_eq_of_add_le,
      BitVec.extractLsb'_eq_self, Nat.reduceSub, and_self]
  exact hpack _ _ _

theorem getLsbD_flagBit (n f : Nat) (b : Bool) (hf : f < 12) : (flagBit n b).getLsbD f = (b && f == n) := by
  cases b with
  | false => simp [flagBit]
  | true =>
    rw [flagBit, if_pos rfl, BitVec.getLsbD_shiftLeft, BitVec.getLsbD_one, Bool.eq_iff_iff]
    simp only [hf, decide_true, Bool.true_and, Nat.ofNat_pos, Bool.and_eq_true, Bool.not_eq_eq_eq_not, Bool.not_true,
      decide_eq_false_iff_not, not_lt, decide_eq_true_eq, beq_iff_eq]
    omega

/-- R53: "bit n for channel n". -/
theorem getLsbD_channelMask (ns : List Nat) {n : Nat} (hn : n < 32) : (channelMask ns).getLsbD n = true ↔ n ∈ ns := by
  suffices ∀ m : Word, (ns.foldl (fun m n => m ||| (1#32 <<< n)) m).getLsbD n = true ↔ m.getLsbD n = true ∨ n ∈ ns by
    exact (this 0).trans (by simp)
  induction ns with
  | nil => simp
  | cons k ns ih =>
    intro m
    have hbit : (1#32 <<< k).getLsbD n = true ↔ n = k := by
      rw [BitVec.getLsbD_shiftLeft, BitVec.getLsbD_one]
      simp only [hn, decide_true, Bool.true_and, Nat.ofNat_pos, Bool.and_eq_true, Bool.not_eq_eq_eq_not, Bool.not_true,
        decide_eq_false_iff_not, not_lt, decide_eq_true_eq]
      omega
    rw [List.foldl_cons, ih, BitVec.getLsbD_or, Bool.or_eq_true, hbit, List.mem_cons, or_assoc]

/-- R141: the GAP record in the words of 10.8. -/
theorem gapRecord_eq (lost : BitVec 16) (lossTime now : Word) : gapRecord lost lossTime now =
    mkRecord .gap 0 none (flagBit 0 (lost == 0xFFFF)) (lost.setWidth 32) lossTime now := by
  rw [gapRecord, show (0#16 ++ lost : BitVec (16 + 16)) = lost.setWidth 32 from
    (BitVec.setWidth_eq_append (by decide)).symm]

/-! ### The slots of the ring (R142) -/

theorem ring_put (j : Journal) (r : Record) (k : Nat) :
    (j.put r).ring[k]? = if k = j.w.toNat then some r else j.ring[k]? := by
  have hlt : j.w.toNat < 128 := j.w.isLt
  by_cases h : k = j.w.toNat
  · simp [Journal.put, h, hlt]
  · simp [Journal.put, h, Ne.symm h]

/-! ### The four cases of an offer with their marks -/

section Cases
variable {s : State} {p : Port} {j : Journal} (r : Record)

theorem offer_written (hj : s.journals.get p = j) (hlost : j.lost = 0) (hfree : 1 ≤ j.free) :
    let j' := (s.offer p r).journals.get p
    j' = { j with ring := j'.ring, w := j.w + 1 } ∧ j'.ring[j.w.toNat]? = some r ∧
      (∀ k : Nat, k ≠ j.w.toNat → j'.ring[k]? = j.ring[k]?) ∧ Marks s (s.offer p r) [.slot p j.w, .head p] := by
  have hoffer := offer_journal s p r
  have hmarks := marks_offer s p r
  rw [hj, Journal.offer_of_room hlost hfree] at hoffer hmarks
  have hne : j.w ≠ j.w + 1 := by simp
  rw [offerMarks_of_changed p (.inl hne), slotsWritten_of_one (by rfl)] at hmarks
  intro j'
  rw [show j' = j.put r from hoffer]
  refine ⟨rfl, ?_, fun k hk => ?_, hmarks⟩
  · rw [ring_put, if_pos rfl]
  · rw [ring_put, if_neg hk]

theorem offer_first_lost (hj : s.journals.get p = j) (hlost : j.lost = 0) (hfree : j.free = 0) :
    (s.offer p r).journals.get p = { j with lost := 1, lossTime := s.clock } ∧ Marks s (s.offer p r) [.head p] := by
  have hoffer := offer_journal s p r
  have hmarks := marks_offer s p r
  rw [hj, Journal.offer_of_full hlost hfree] at hoffer hmarks
  rw [offerMarks_of_changed p (.inr (by simp [hlost])), slotsWritten_of_same (by rfl)] at hmarks
  exact ⟨hoffer, hmarks⟩

theorem offer_written_behind_gap (hj : s.journals.get p = j) (hlost : j.lost ≠ 0) (hfree : 2 ≤ j.free) :
    let j' := (s.offer p r).journals.get p
    j' = { j with ring := j'.ring, w := j.w + 2, lost := 0 } ∧
      j'.ring[j.w.toNat]? = some (gapRecord j.lost j.lossTime s.clock) ∧ j'.ring[(j.w + 1).toNat]? = some r ∧
      (∀ k : Nat, k ≠ j.w.toNat → k ≠ (j.w + 1).toNat → j'.ring[k]? = j.ring[k]?) ∧
      Marks s (s.offer p r) [.slot p j.w, .slot p (j.w + 1), .head p] := by
  have hoffer := offer_journal s p r
  have hmarks := marks_offer s p r
  rw [hj] at hoffer hmarks
  rw [offerMarks_of_changed p (.inl (by rw [w_offer_behind_gap hlost hfree]; simp)),
    slotsWritten_of_two (w_offer_behind_gap hlost hfree)] at hmarks
  rw [Journal.offer_behind_gap hlost hfree] at hoffer
  have hring : ∀ k : Nat, ((s.offer p r).journals.get p).ring[k]? = if k = (j.w + 1).toNat then some r
      else if k = j.w.toNat then some (gapRecord j.lost j.lossTime s.clock) else j.ring[k]? := fun k => by
    rw [hoffer, ring_put]
    exact if_congr Iff.rfl rfl (ring_put j _ k)
  have hne : j.w.toNat ≠ (j.w + 1).toNat := fun h => absurd (BitVec.eq_of_toNat_eq h) (by simp)
  intro j'
  refine ⟨?_, ?_, ?_, fun k hk hk' => ?_, hmarks⟩
  · rw [show j' = _ from hoffer]
    simp [Journal.put, BitVec.add_assoc]
  · exact (hring _).trans (by rw [if_neg hne, if_pos rfl])
  · exact (hring _).trans (if_pos rfl)
  · exact (hring _).trans (by rw [if_neg hk', if_neg hk])

theorem offer_lost_again (hj : s.journals.get p = j) (hlost : j.lost ≠ 0) (hfree : j.free < 2) :
    (s.offer p r).journals.get p = { j with lost := if j.lost = 0xFFFF then 0xFFFF else j.lost + 1 } ∧
      Marks s (s.offer p r) (if j.lost = 0xFFFF then [] else [.head p]) := by
  have hoffer := offer_journal s p r
  have hmarks := marks_offer s p r
  rw [hj, Journal.offer_of_lost hlost hfree] at hoffer hmarks
  refine ⟨hoffer, ?_⟩
  by_cases hmax : j.lost = 0xFFFF
  · rw [if_pos hmax, offerMarks_of_same p (by rfl) hmax.symm] at hmarks
    rwa [if_pos hmax]
  · rw [if_neg hmax, offerMarks_of_changed p (.inr (by simp)), slotsWritten_of_same (by rfl)] at hmarks
    rwa [if_neg hmax]

end Cases

/-- Settles O44: the record field by field, then the offer by whether records were lost before and how many slots are free. -/
theorem anOfferIsWrittenOrCountedAsLost : Obligations.AnOfferIsWrittenOrCountedAsLost := by
  refine ⟨fun k subject buf flags arg timeA timeB => ?_, fun n f b => getLsbD_flagBit n f b,
    fun ns n => getLsbD_channelMask ns, fun s p r => ?_⟩
  · obtain ⟨hcode, hsubject, hlow, hbuf, hhigh, hflags⟩ := mkRecord_w0_fields k subject buf flags arg timeA timeB
    refine ⟨hcode.trans ?_, fun hlt => ?_, hlow, fun b hb hlt => ?_, fun hb => ?_, ?_, hflags, rfl, rfl, rfl⟩
    · cases k <;> rfl
    · rw [hsubject, BitVec.toNat_ofNat]
      omega
    · rw [hbuf, hb, indexCode, BitVec.toNat_ofNat]
      omega
    · rw [hbuf, hb]
      rfl
    · have hbit := congrArg (fun b : BitVec 1 => b.getLsbD 0) hhigh
      rwa [BitVec.getLsbD_extractLsb'] at hbit
  · have hbehind := offer_written_behind_gap r (rfl : s.journals.get p = s.journals.get p)
    rw [gapRecord_eq] at hbehind
    refine ⟨?_, offer_attention s p r, offer_written r rfl, offer_first_lost r rfl, hbehind, offer_lost_again r rfl⟩
    rw [offer_journal]
    rfl

end Sys2Proof.Machine

/-! SUPPORT. The take of a journal read index (R145, R146). -/
namespace Sys2Proof.Machine

theorem decodeAndAct_jread (p : Port) (v : Word) (s : State) : decodeAndAct p (triggerDrive (.jread p) v) s =
    (takeJread p v s, .control (.trigger (.jread p)) true ((triggerDrive (.jread p) v).addr.setWidth 17)) := by
  cases p <;> rfl

/-- R145: "(n − Rd) modulo 128 is not greater than (H − Rd) modulo 128". -/
theorem Journal.accepts_iff (j : Journal) (n : BitVec 7) :
    j.accepts n = true ↔ (n - j.rd).toNat ≤ (j.h - j.rd).toNat := by
  rw [Journal.accepts, decide_eq_true_iff, BitVec.le_def]

theorem takeJread_of_accepted {x : Port} {v : Word} {s : State} (h : (s.journals.get x).accepts (jreadIndex v) = true) :
    takeJread x v s =
      { s with journals := s.journals.modify x fun j => { j with rd := jreadIndex v } }.mark (.report x) := by
  rw [takeJread, if_pos h]

theorem takeJread_of_refused {x : Port} {v : Word} {s : State} (h : ¬ (s.journals.get x).accepts (jreadIndex v) = true) :
    takeJread x v s = (s.raise x .indexFault).mark (.report x) := by
  rw [takeJread, if_neg h]

/-- R145, R146: the report word is marked in both cases. -/
theorem marks_takeJread (x : Port) (v : Word) (s : State) : Marks s (takeJread x v s) [.report x] := by
  unfold takeJread
  split
  · exact (Marks.of_mirror rfl : Marks s _ []).trans (marks_mark _ _)
  · exact (marks_raise s x .indexFault).trans (marks_mark _ _)

/-- R145, R146: the other port's pending set stays. -/
theorem pendingSet_takeJread_of_ne {x q : Port} (h : q ≠ x) (v : Word) (s : State) :
    pendingSet (takeJread x v s) q = pendingSet s q := by
  unfold takeJread
  rw [pendingSet_mark]
  split
  · refine pendingSet_congr rfl rfl (fun _ => rfl) ?_
    rw [Both.get_modify_of_ne _ h]
    exact ⟨rfl, rfl⟩
  · exact pendingSet_congr (by rw [raise_attention_of_ne s h]) rfl (fun _ => rfl) ⟨rfl, rfl⟩

/-- R157: where the event marks the report word of the one port whose pending set it may change, the comparison at its end
adds nothing. -/
theorem marks_noteReports_of_one {b t : State} {x : Port} (hm : Marks b t [.report x])
    (ho : ∀ q, q ≠ x → pendingSet t q = pendingSet b q) : Marks b (noteReports b t) [.report x] := by
  refine (hm.trans (marks_noteReports b t)).congr fun i => ⟨fun hi => ?_, fun hi => List.mem_append_left _ hi⟩
  rcases List.mem_append.1 hi with hi | hi
  · exact hi
  · obtain ⟨q, hq, rfl⟩ := List.mem_map.1 hi
    have hne : pendingSet t q ≠ pendingSet b q := bne_iff_ne.1 (List.mem_filter.1 hq).2
    rw [List.mem_singleton, MirrorItem.report.injEq]
    exact not_imp_comm.1 (ho q) hne

/-- The event of a journal read index that is taken. -/
theorem exec_jreadTake {s u : State} {p : Port} {v : Word} (hu : u = settle s) (ht : Takes u p) :
    exec (.jreadTake p v) s = .next (grant (noteReports u
      ((takeJread p v (drivePort p (triggerDrive (.jread p) v) u)).setAccess p
        (.taken { drive := triggerDrive (.jread p) v
                  outcome := .control (.trigger (.jread p)) true ((triggerDrive (.jread p) v).addr.setWidth 17)
                  err := false, withdrawn := false })))) := by
  rw [← take_of_allowed (decodeAndAct_jread p v (drivePort p (triggerDrive (.jread p) v) u)) rfl,
    ← present_of_takes ht, hu]
  rfl

/-- Settles O23: the take reaches the journal's owner, by whether it accepts the index. -/
theorem aJreadTakeMovesRdWithinTheSpan : Obligations.AJreadTakeMovesRdWithinTheSpan := by
  intro s p v u d j n ht
  have hu : u = settle s := rfl
  clear_value u
  have haccepts := Journal.accepts_iff j n
  have hmarks : Marks u (takeJread p v (drivePort p d u)) [.report p] :=
    (Marks.of_mirror rfl : Marks u (drivePort p d u) []).trans (marks_takeJread p v _)
  have hothers : ∀ q, q ≠ p → pendingSet (takeJread p v (drivePort p d u)) q = pendingSet u q := fun q hq =>
    pendingSet_takeJread_of_ne hq v (drivePort p d u)
  refine ⟨_, exec_jreadTake hu ht, fun hin => ?_, fun hout => ?_, ?_⟩
  · have hjournals : (u.journals.modify p fun k => { k with rd := n }) = u.journals.set p { j with rd := n } := by
      cases p <;> rfl
    refine (noteReports_eq u _).trans ?_
    rw [takeJread_of_accepted (s := drivePort p d u) (haccepts.2 hin), ← hjournals]
    rfl
  · refine (noteReports_eq u _).trans ?_
    rw [takeJread_of_refused (s := drivePort p d u) fun h => Nat.not_lt.2 (haccepts.1 h) hout]
    rfl
  · exact marks_noteReports_of_one (hmarks.trans (marks_setAccess _ p _)) fun q hq =>
      (pendingSet_setAccess _ p _ q).trans (hothers q hq)

end Sys2Proof.Machine

/-! SUPPORT. The law of one journal's indices (R137) in the words of its ring: which of its slots wait to be written, and what of
it is in flight. -/
namespace Sys2Proof.Machine

/-! ### Distances in the ring (R137) -/

section Ring
variable {rd h c w w' k n : BitVec 7}

/-- C stays in the span when W advances over free slots. -/
theorem ring_le_advance (hcw : c - rd ≤ w - rd) (hadv : (w' - w).toNat ≤ 127 - (w - rd).toNat) : c - rd ≤ w' - rd := by
  bv_omega

/-- The slots from C to W and those from W to the new W are the slots from C to the new W. -/
theorem ring_lt_advance (hcw : c - rd ≤ w - rd) (hadv : (w' - w).toNat ≤ 127 - (w - rd).toNat) :
    k - c < w - c ∨ k - w < w' - w ↔ k - c < w' - c := by
  bv_omega

/-- The slots from W to the new W were free. -/
theorem ring_free_advance (hcw : c - rd ≤ w - rd) (hadv : (w' - w).toNat ≤ 127 - (w - rd).toNat) (hk : k - c < w - c) :
    ¬ k - w < w' - w := by
  bv_omega

/-- Rd moves within the span from Rd to H: what lay beyond H in order still does. -/
theorem ring_le_read (hn : n - rd ≤ h - rd) (hhc : h - rd ≤ c - rd) (hcw : c - rd ≤ w - rd) : c - n ≤ w - n := by
  bv_omega

/-- C moves by one slot that waits. -/
theorem ring_le_next (hhc : h - rd ≤ c - rd) (hcw : c - rd ≤ w - rd) (hne : c ≠ w) :
    h - rd ≤ c + 1 - rd ∧ c + 1 - rd ≤ w - rd := by
  bv_omega

theorem ring_lt_next (hne : c ≠ w) : k - (c + 1) < w - (c + 1) ↔ k - c < w - c ∧ k ≠ c := by
  bv_omega

/-- The slot at C comes first. -/
theorem ring_eq_first (h : k - c ≤ c - c) : k = c := by
  bv_omega

theorem ring_first_lt (h : k - c < w - c) : c - c < w - c := by
  bv_omega

end Ring

/-! ### The law of one journal -/

/-- R137 with what it rests on (R142 to R144), for a journal of which the slots `waits` wait to be written, while the slot `slot?`
and a head word with the index `head?` are in flight. -/
structure Journal.Lawful (j : Journal) (waits : BitVec 7 → Prop) (slot? head? : Option (BitVec 7)) : Prop where
  head_le : j.h - j.rd ≤ j.c - j.rd
  completed_le : j.c - j.rd ≤ j.w - j.rd
  span : ∀ k, waits k ∨ slot? = some k ↔ k - j.c < j.w - j.c
  slot : ∀ k, slot? = some k → k = j.c ∧ ¬ waits k
  head : ∀ i, head? = some i → j.h - j.rd ≤ i - j.rd ∧ i - j.rd ≤ j.c - j.rd

section Lawful
variable {j j' : Journal} {waits : BitVec 7 → Prop} {slot? head? : Option (BitVec 7)}

theorem Journal.Lawful.congr {waits' : BitVec 7 → Prop} (h : j.Lawful waits slot? head?) (hw : ∀ k, waits' k ↔ waits k) :
    j.Lawful waits' slot? head? := by
  rwa [funext fun k => propext (hw k)]

/-- R142: W advances over free slots, which then wait. -/
theorem Journal.Lawful.advance (h : j.Lawful waits slot? head?) (hfixed : j'.h = j.h ∧ j'.c = j.c ∧ j'.rd = j.rd)
    (hadv : (j'.w - j.w).toNat ≤ j.free) : j'.Lawful (fun k => waits k ∨ k - j.w < j'.w - j.w) slot? head? := by
  obtain ⟨hh, hc, hrd⟩ := hfixed
  constructor <;> rw [hc]
  · rw [hh, hrd]
    exact h.head_le
  · rw [hrd]
    exact ring_le_advance h.completed_le hadv
  · intro k
    rw [← ring_lt_advance h.completed_le hadv, ← h.span k]
    tauto
  · intro k hk
    obtain ⟨rfl, hnot⟩ := h.slot k hk
    have hlt := (h.span j.c).1 (.inr hk)
    exact ⟨rfl, not_or.2 ⟨hnot, ring_free_advance h.completed_le hadv hlt⟩⟩
  · rw [hh, hrd]
    exact h.head

/-- R145: Rd moves within the span from Rd to H. -/
theorem Journal.Lawful.read (h : j.Lawful waits slot? head?) {n : BitVec 7} (hn : n - j.rd ≤ j.h - j.rd) :
    Journal.Lawful { j with rd := n } waits slot? head? where
  head_le := ring_le_read hn (BitVec.le_refl _) h.head_le
  completed_le := ring_le_read hn h.head_le h.completed_le
  span := h.span
  slot := h.slot
  head i hi := by
    obtain ⟨hhi, hic⟩ := h.head i hi
    exact ⟨ring_le_read hn (BitVec.le_refl _) hhi, ring_le_read hn hhi hic⟩

/-- R143: the slot in flight is complete, and C moves past it. -/
theorem Journal.Lawful.slotDone (h : j.Lawful waits slot? head?) {k : BitVec 7} (hk : slot? = some k) :
    Journal.Lawful { j with c := j.c + 1 } waits none none := by
  obtain ⟨rfl, hnot⟩ := h.slot k hk
  have hlt : j.c - j.c < j.w - j.c := (h.span j.c).1 (.inr hk)
  have hne : j.c ≠ j.w := fun e => by
    rw [← e] at hlt
    exact BitVec.lt_irrefl _ hlt
  obtain ⟨hhead, hcompleted⟩ := ring_le_next h.head_le h.completed_le hne
  refine ⟨hhead, hcompleted, fun m => ?_, nofun, nofun⟩
  rw [ring_lt_next hne, ← h.span m, hk, Option.some.injEq, eq_comm (a := j.c)]
  constructor
  · rintro (hm | hm)
    · exact ⟨.inl hm, fun e => hnot (e ▸ hm)⟩
    · cases hm
  · rintro ⟨hm | hm, hmc⟩
    · exact .inl hm
    · exact absurd hm hmc

/-- R144: the head word in flight is complete, and H is the index that it carried. -/
theorem Journal.Lawful.headDone (h : j.Lawful waits slot? head?) {i : BitVec 7} (hi : head? = some i) (hs : slot? = none) :
    Journal.Lawful { j with h := i } waits none none :=
  ⟨(h.head i hi).2, h.completed_le, hs ▸ h.span, nofun, nofun⟩

/-- An item that is no slot of the journal leaves the flight without a trace. -/
theorem Journal.Lawful.land (h : j.Lawful waits slot? head?) (hs : slot? = none) : j.Lawful waits none none :=
  ⟨h.head_le, h.completed_le, hs ▸ h.span, nofun, nofun⟩

/-- R133: the first slot that waits is started: it is the one at C. -/
theorem Journal.Lawful.startSlot (h : j.Lawful waits none head?) {k : BitVec 7} (hk : waits k)
    (hfirst : ∀ m, waits m → k - j.c ≤ m - j.c) : j.Lawful (fun m => waits m ∧ m ≠ k) (some k) none := by
  have hwaits : ∀ m, waits m ↔ m - j.c < j.w - j.c := fun m => by simpa using h.span m
  obtain rfl : k = j.c := ring_eq_first (hfirst j.c ((hwaits j.c).2 (ring_first_lt ((hwaits k).1 hk))))
  refine ⟨h.head_le, h.completed_le, fun m => ?_, fun m hm => ?_, nofun⟩
  · rw [← hwaits m, Option.some.injEq]
    by_cases hm : m = j.c
    · simp [hm, hk]
    · simp [hm, Ne.symm hm]
  · cases hm
    exact ⟨rfl, fun hboth => hboth.2 rfl⟩

/-- R144: a head word is started, with C as its index. -/
theorem Journal.Lawful.startHead (h : j.Lawful waits none head?) : j.Lawful waits none (some j.c) :=
  ⟨h.head_le, h.completed_le, h.span, nofun, fun i hi => by
    cases hi
    exact ⟨h.head_le, BitVec.le_refl _⟩⟩

end Lawful
end Sys2Proof.Machine

/-! SUPPORT. The law of the journals (R137) over the state: it depends on the journals, on which slots are marked and on the
sequence in flight, so what offers records and marks other items keeps it. -/
namespace Sys2Proof.Machine

/-! ### What is in flight (R132) -/

/-- The slot of port `p`'s journal that is in flight. -/
def State.slotInFlight (s : State) (p : Port) : Option (BitVec 7) :=
  s.mirror.flight.bind fun f =>
    match f.item with
    | .slot q k => if q = p then some k else none
    | _ => none

/-- The index that port `p`'s head word in flight carries (R144). -/
def State.headInFlight (s : State) (p : Port) : Option (BitVec 7) :=
  s.mirror.flight.bind fun f => if f.item = .head p then some (headIndexOf (f.content.getD 0 0)) else none

section Flight
variable {s t : State} {p : Port}

theorem slotInFlight_eq_some {k : BitVec 7} :
    s.slotInFlight p = some k ↔ ∃ f, s.mirror.flight = some f ∧ f.item = .slot p k := by
  unfold State.slotInFlight
  rw [Option.bind_eq_some_iff]
  refine exists_congr fun f => and_congr_right fun _ => ?_
  cases f.item with
  | slot q m =>
    by_cases hq : q = p
    · simp [hq]
    · simp [hq]
  | _ => simp

theorem headInFlight_eq_some {i : BitVec 7} : s.headInFlight p = some i ↔
    ∃ f, s.mirror.flight = some f ∧ f.item = .head p ∧ headIndexOf (f.content.getD 0 0) = i := by
  unfold State.headInFlight
  rw [Option.bind_eq_some_iff]
  refine exists_congr fun f => and_congr_right fun _ => ?_
  by_cases hf : f.item = .head p
  · simp [hf]
  · simp [hf]

/-- What is in flight at `t` was in flight at `s`, with its content and the cycles it had been granted. -/
theorem SequencesKept.flight (h : SequencesKept s t) {f : Flight} (hf : t.mirror.flight = some f) :
    ∃ g, s.mirror.flight = some g ∧ g.item = f.item ∧ g.content = f.content ∧ g.granted = f.granted := by
  obtain ⟨-, -, hflight⟩ := h
  rw [hf, Option.map_some, eq_comm] at hflight
  obtain ⟨g, hg, hsame⟩ := Option.map_eq_some_iff.1 hflight
  obtain ⟨hitem, hcontent, hgranted⟩ : _ ∧ _ ∧ _ := by simpa using hsame
  exact ⟨g, hg, hitem, hcontent, hgranted⟩

theorem SequencesKept.symm (h : SequencesKept s t) : SequencesKept t s := ⟨h.1.symm, h.2.1.symm, h.2.2.symm⟩

theorem SequencesKept.slotInFlight (h : SequencesKept s t) (p : Port) : t.slotInFlight p = s.slotInFlight p := by
  have hgo : ∀ {u v : State}, SequencesKept u v → ∀ k, v.slotInFlight p = some k → u.slotInFlight p = some k := by
    intro u v huv k hk
    obtain ⟨f, hf, hitem⟩ := slotInFlight_eq_some.1 hk
    obtain ⟨g, hg, hsame, -, -⟩ := huv.flight hf
    exact slotInFlight_eq_some.2 ⟨g, hg, hsame.trans hitem⟩
  exact Option.ext fun k => ⟨hgo h k, hgo h.symm k⟩

theorem SequencesKept.headInFlight (h : SequencesKept s t) (p : Port) : t.headInFlight p = s.headInFlight p := by
  have hgo : ∀ {u v : State}, SequencesKept u v → ∀ i, v.headInFlight p = some i → u.headInFlight p = some i := by
    intro u v huv i hi
    obtain ⟨f, hf, hitem, hindex⟩ := headInFlight_eq_some.1 hi
    obtain ⟨g, hg, hsame, hcontent, -⟩ := huv.flight hf
    exact headInFlight_eq_some.2 ⟨g, hg, hsame.trans hitem, by rw [hcontent, hindex]⟩
  exact Option.ext fun i => ⟨hgo h i, hgo h.symm i⟩

theorem slotInFlight_of_none (h : s.mirror.flight = none) (p : Port) : s.slotInFlight p = none := by
  rw [State.slotInFlight, h]
  rfl

theorem headInFlight_of_none (h : s.mirror.flight = none) (p : Port) : s.headInFlight p = none := by
  rw [State.headInFlight, h]
  rfl

/-! ### The law of the item in flight (R132) -/

theorem FlightLaw.kept (h : FlightLaw s) (hk : SequencesKept s t) (hc : t.cycle = s.cycle) : FlightLaw t := by
  intro f hf
  obtain ⟨g, hg, hitem, -, hgranted⟩ := hk.flight hf
  rw [← hitem, ← hgranted, hc]
  exact h g hg

/-- R132: while no Mirror cycle is in progress, the item in flight has cycles left. -/
theorem FlightLaw.lt_cycles (h : FlightLaw s) (hc : ∀ c, s.cycle = some c → c.use ≠ .mirror) {f : Flight}
    (hf : s.mirror.flight = some f) : f.granted < f.item.cycles := by
  obtain ⟨-, hle, hlast⟩ := h f hf
  refine lt_of_le_of_ne hle fun e => ?_
  obtain ⟨c, hcycle, huse⟩ := hlast e
  exact hc c hcycle huse

/-- A cycle that is not the Mirror's may end, or begin on a free port. -/
theorem FlightLaw.setCycle (h : FlightLaw s) (hc : ∀ c, s.cycle = some c → c.use ≠ .mirror)
    (hm : t.mirror.flight = s.mirror.flight) : FlightLaw t := by
  intro f hf
  rw [hm] at hf
  obtain ⟨hpos, hle, -⟩ := h f hf
  exact ⟨hpos, hle, fun e => absurd e (h.lt_cycles hc hf).ne⟩

/-! ### The law of the indices (R137) -/

theorem journalLaw_iff : journalLaw s p ↔
    (s.journals.get p).Lawful (fun k => Marked s (.slot p k)) (s.slotInFlight p) (s.headInFlight p) := by
  have hwaits : ∀ k, Marked s (.slot p k) ∨ s.slotInFlight p = some k ↔ slotWaits s p k := by
    intro k
    rw [slotInFlight_eq_some, Marked, slotWaits, or_assoc]
    refine or_congr_right ⟨?_, .inr⟩
    rintro (⟨f, hf, hitem, -⟩ | h)
    · exact ⟨f, hf, hitem⟩
    · exact h
  have hunmarked : ∀ f k, s.mirror.flight = some f → f.item = .slot p k →
      (¬ Marked s (.slot p k) ↔ f.changed = false ∧ .slot p k ∉ s.mirror.dirty) := by
    intro f k hf hitem
    simp [Marked, hf, hitem, and_comm]
  constructor
  · rintro ⟨hhead, hcompleted, hspan, hslot, hindex⟩
    refine ⟨hhead, hcompleted, fun k => (hwaits k).trans (hspan k), fun k hk => ?_, fun i hi => ?_⟩
    · obtain ⟨f, hf, hitem⟩ := slotInFlight_eq_some.1 hk
      obtain ⟨hfirst, hclean⟩ := hslot f k hf hitem
      exact ⟨hfirst, (hunmarked f k hf hitem).2 hclean⟩
    · obtain ⟨f, hf, hitem, rfl⟩ := headInFlight_eq_some.1 hi
      exact hindex f hf hitem
  · rintro ⟨hhead, hcompleted, hspan, hslot, hindex⟩
    refine ⟨hhead, hcompleted, fun k => (hwaits k).symm.trans (hspan k), fun f k hf hitem => ?_, fun f hf hitem => ?_⟩
    · obtain ⟨hfirst, hclean⟩ := hslot k (slotInFlight_eq_some.2 ⟨f, hf, hitem⟩)
      exact ⟨hfirst, (hunmarked f k hf hitem).1 hclean⟩
    · exact hindex _ (headInFlight_eq_some.2 ⟨f, hf, hitem, rfl⟩)

end Flight

/-! ### What offers write (R138, R139, R142) -/

theorem ring_advance_trans {rd w w₁ w₂ : BitVec 7} (h₁ : (w₁ - w).toNat ≤ 127 - (w - rd).toNat)
    (h₂ : (w₂ - w₁).toNat ≤ 127 - (w₁ - rd).toNat) : (w₂ - w).toNat ≤ 127 - (w - rd).toNat := by
  bv_omega

/-- Offers move W alone, over free slots. -/
theorem offers_fixed (now : Word) (j : Journal) (rs : List Record) :
    (offers now j rs).h = j.h ∧ (offers now j rs).c = j.c ∧ (offers now j rs).rd = j.rd := by
  induction rs generalizing j with
  | nil => exact ⟨rfl, rfl, rfl⟩
  | cons r rs ih =>
    obtain ⟨hh, hc, hrd⟩ := ih (j.offer r now)
    obtain ⟨hh', hc', hrd'⟩ := offer_indices j r now
    exact ⟨hh.trans hh', hc.trans hc', hrd.trans hrd'⟩

theorem offers_advance_le_free (now : Word) (j : Journal) (rs : List Record) :
    ((offers now j rs).w - j.w).toNat ≤ j.free := by
  induction rs generalizing j with
  | nil =>
    rw [offers_nil, BitVec.sub_self]
    exact Nat.zero_le _
  | cons r rs ih =>
    have hrest := ih (j.offer r now)
    rw [Journal.free, Journal.unread, (offer_indices j r now).2.2] at hrest
    exact ring_advance_trans (offer_advance_le_free j r now) hrest

theorem slot_mem_offerMarks {p q : Port} {j j' : Journal} {k : BitVec 7} :
    .slot p k ∈ offerMarks q j j' ↔ p = q ∧ k - j.w < j'.w - j.w := by
  have hhead : MirrorItem.slot p k ∉ (if j.w ≠ j'.w ∨ j.lost ≠ j'.lost then [MirrorItem.head q] else []) := by
    split <;> simp
  rw [offerMarks, List.mem_append, or_iff_left hhead, ← mem_slotsWritten, List.mem_map]
  constructor
  · rintro ⟨m, hm, he⟩
    cases he
    exact ⟨rfl, hm⟩
  · rintro ⟨rfl, hk⟩
    exact ⟨k, hk, rfl⟩

/-- The slots that the offers mark lie from the old W up to the new. -/
theorem slot_mem_offersMark {now : Word} {p q : Port} {j : Journal} {rs : List Record} {k : BitVec 7} :
    .slot p k ∈ offersMark now q j rs ↔ p = q ∧ k - j.w < (offers now j rs).w - j.w := by
  induction rs generalizing j with
  | nil =>
    rw [offers_nil, BitVec.sub_self]
    exact ⟨nofun, fun h => absurd h.2 BitVec.not_lt_zero⟩
  | cons r rs ih =>
    have hfirst := offer_advance_le_free j r now
    have hrest := offers_advance_le_free now (j.offer r now) rs
    rw [Journal.free, Journal.unread, (offer_indices j r now).2.2] at hrest
    rw [offersMark, List.mem_append, slot_mem_offerMarks, ih, ← and_or_left, offers_cons,
      ring_lt_advance (ring_le_advance (BitVec.le_refl _) hfirst) hrest]

/-! ### What keeps the law -/

section Kept
variable {s t : State}

/-- The law speaks of the journals, the Mirror and the cycle alone. -/
theorem JournalLaw.elsewhere (h : JournalLaw s) (hj : t.journals = s.journals) (hm : t.mirror = s.mirror)
    (hc : t.cycle = s.cycle) : JournalLaw t := by
  unfold JournalLaw FlightLaw journalLaw slotWaits
  rw [hj, hm, hc]
  exact h

/-- R138, R139, R142: records are offered, and beside them no slot is marked. -/
theorem JournalLaw.reports {rs : Port → List Record} {cs : Port → BitVec 12} {is : List MirrorItem} (h : JournalLaw s)
    (hr : Reports s t rs cs is) (hi : ∀ p k, .slot p k ∉ is) (hk : SequencesKept s t) (hc : t.cycle = s.cycle) :
    JournalLaw t := by
  obtain ⟨hflight, hlaw⟩ := h
  refine ⟨hflight.kept hk hc, fun p => journalLaw_iff.2 ?_⟩
  rw [hk.slotInFlight, hk.headInFlight, hr.journal p]
  refine ((journalLaw_iff.1 (hlaw p)).advance (offers_fixed s.clock _ (rs p)) (offers_advance_le_free s.clock _ _)).congr
    fun k => ?_
  rw [hr.marked (.slot p k) rfl, List.mem_append, List.mem_append, slot_mem_offersMark, slot_mem_offersMark]
  cases p <;> simp [hi]

theorem JournalLaw.tells {rs : Port → List Record} {cs : Port → BitVec 12} {is : List MirrorItem} (h : JournalLaw s)
    (ht : Tells s t rs cs is) (hc : t.cycle = s.cycle := by rfl) (hi : ∀ p k, .slot p k ∉ is := by simp) : JournalLaw t :=
  h.reports ht.toReports hi ht.marks.2 hc

end Kept
end Sys2Proof.Machine

/-! SUPPORT. The law of the journals (R137) through the operations of the exchange unit, the takes and completions of accesses, the
Loader, the install and the start of holdover: each offers records and marks items that are no slots. -/
namespace Sys2Proof.Machine

section JournalLaw
variable {s : State}

/-! ### The operations of the state -/

theorem JournalLaw.modChannel (h : JournalLaw s) (n : Nat) (f : Channel → Channel) : JournalLaw (s.modChannel n f) :=
  h.elsewhere rfl rfl rfl

theorem JournalLaw.modGroup (h : JournalLaw s) (g : Nat) (f : Group → Group) : JournalLaw (s.modGroup g f) :=
  h.elsewhere rfl rfl rfl

theorem JournalLaw.setAccess (h : JournalLaw s) (p : Port) (a : AccessState) : JournalLaw (s.setAccess p a) :=
  h.elsewhere rfl rfl rfl

theorem JournalLaw.mark (h : JournalLaw s) (i : MirrorItem) (hi : ∀ p k, .slot p k ∉ [i] := by simp) :
    JournalLaw (s.mark i) := h.tells (tells_mark s i) rfl hi

theorem JournalLaw.raise (h : JournalLaw s) (p : Port) (c : Cause) : JournalLaw (s.raise p c) := h.tells (tells_raise s p c)

theorem JournalLaw.offer (h : JournalLaw s) (p : Port) (r : Record) : JournalLaw (s.offer p r) := h.tells (tells_offer s p r)

theorem JournalLaw.foldl {β : Type} {f : State → β → State} (h : JournalLaw s) (hf : ∀ v b, JournalLaw v → JournalLaw (f v b))
    (bs : List β) : JournalLaw (bs.foldl f s) := List.foldlRecOn bs f h fun v hv b _ => hf v b hv

/-! ### Publications and gathers (R35 to R41) -/

theorem JournalLaw.publishMembers (h : JournalLaw s) (g : Nat) : JournalLaw (publishMembers g s) :=
  h.foldl (fun v n hv => hv.tells (tells_publishPending v n) (publishPending_only v n).cycle (by simp)) _

theorem JournalLaw.endGather (h : JournalLaw s) (g : Nat) : JournalLaw (endGather g s) :=
  (h.modGroup g _).mark (.groupBlock g)

theorem JournalLaw.startGather (h : JournalLaw s) (g : Nat) : JournalLaw (startGather g s) := by
  unfold Machine.startGather
  split
  · split
    · exact (h.modGroup g _).mark (.groupBlock g)
    · exact h
  · exact h

theorem JournalLaw.memberGained (h : JournalLaw s) (g : Nat) : JournalLaw (memberGained g s) := by
  have hstart := h.startGather g
  unfold Machine.memberGained
  split
  · unfold completeGather
    split
    · exact (hstart.publishMembers g).endGather g
    · exact hstart
  · exact h

/-! ### Fill passes (R6 to R14, R24) -/

theorem JournalLaw.faultPass (h : JournalLaw s) (n : Nat) (c : Channel) (p : FillPass) (e : Bool) (r : Record) :
    JournalLaw (faultPass n c p e r s) := h.tells (tells_faultPass n c p e r s) (faultPass_only n c p e r s).cycle

theorem JournalLaw.closePass (h : JournalLaw s) (n : Nat) (q : Word) : JournalLaw (closePass n q s) := by
  unfold Machine.closePass
  split
  · exact h
  rename_i c hc
  split
  · exact h
  split
  swap
  · exact h
  split
  · exact h.faultPass n c _ false _
  · split
    · exact h.tells (tells_closeIntoLive hc _) (closeIntoLive_only n _ _ s).cycle
    · exact (h.tells (tells_pendBuffer n _ c _ s) (pendBuffer_only n _ c _ s).cycle).memberGained _

theorem JournalLaw.expirePass (h : JournalLaw s) (n : Nat) : JournalLaw (expirePass n s) := by
  unfold Machine.expirePass
  split
  · exact h
  rename_i c hc
  split
  · exact h
  · exact h.faultPass n c _ true _

theorem JournalLaw.rearm (h : JournalLaw s) (x : Port) (v : Word) : JournalLaw (rearm x v s) := by
  have hsame : (Machine.rearm x v s).journals = s.journals ∧ (Machine.rearm x v s).attention = s.attention := by
    rw [rearm_eq]
    exact ⟨rfl, rfl⟩
  obtain ⟨hjournals, hattention⟩ := hsame
  obtain ⟨-, hmarks⟩ := rearm_spec x v s
  exact h.tells (.of_marks (rearm_only x v s).clock hjournals hattention hmarks) (rearm_only x v s).cycle

theorem JournalLaw.openPass (h : JournalLaw s) (n : Nat) : JournalLaw (openPass n s) := by
  unfold Machine.openPass
  split
  · split
    · exact (h.modChannel n _).mark (.chanBlock n)
    · exact h
  · exact h

theorem JournalLaw.takeProducerWrite (h : JournalLaw s) (n off : Nat) : JournalLaw (takeProducerWrite n off s).1 := by
  unfold Machine.takeProducerWrite
  dsimp only
  split
  · exact (h.openPass n).modChannel n _
  · exact h.openPass n

/-! ### Read pins (R44 to R50) -/

theorem JournalLaw.pinMember (h : JournalLaw s) (n : Nat) : JournalLaw (pinMember s n) := by
  unfold Machine.pinMember
  split
  · dsimp only
    split
    · exact h.modChannel n _
    · exact (h.modChannel n _).mark (.chanBlock n)
  · exact h

theorem JournalLaw.openPin (h : JournalLaw s) (g : Nat) : JournalLaw (openPin g s) := by
  unfold Machine.openPin
  split
  · split
    · exact ((h.modGroup g _).mark (.groupBlock g)).foldl (fun _ n hv => hv.pinMember n) _
    · exact h
  · exact h

theorem JournalLaw.takeConsumerRead (h : JournalLaw s) (n off : Nat) : JournalLaw (takeConsumerRead n off s).1 := by
  unfold Machine.takeConsumerRead
  split
  · exact h
  · dsimp only
    split
    · exact (h.openPin _).modGroup _ _
    · exact h.openPin _

theorem JournalLaw.dropPin (h : JournalLaw s) (g : Nat) : JournalLaw (dropPin g s) :=
  h.tells (tells_dropPin g s) (dropPin_only g s).cycle

theorem JournalLaw.closePin (h : JournalLaw s) (g : Nat) : JournalLaw (closePin g s) := by
  unfold Machine.closePin
  split
  · exact h
  · dsimp only
    split
    · exact ((h.dropPin g).offer _ _).raise _ _
    · exact h.dropPin g

theorem JournalLaw.releasePin (h : JournalLaw s) (g : Nat) (i : Bool) : JournalLaw (releasePin g i s) := by
  unfold Machine.releasePin
  split
  · exact h
  · exact ((h.dropPin g).offer _ _).raise _ _

theorem JournalLaw.taintPin (h : JournalLaw s) (g : Nat) : JournalLaw (taintPin g s) :=
  h.tells (tells_taintPin g s) (taintPin_only g s).cycle (by simp)

/-! ### The exchange unit at a completion (R93) -/

theorem JournalLaw.exchangeCompletion (h : JournalLaw s) (a : ChannelAccess) (wr failed : Bool) :
    JournalLaw (exchangeCompletion a wr failed s) := by
  unfold Machine.exchangeCompletion
  split
  · split
    · split
      · exact h.closePass _ _
      · exact h
    · exact h
  · split
    · exact h
    · rename_i c _
      have htaint : JournalLaw (if failed then Machine.taintPin c.desc.group s else s) := by
        split
        · exact h.taintPin _
        · exact h
      dsimp only
      split
      · exact htaint.closePin _
      · exact htaint

theorem JournalLaw.exchangeStep (h : JournalLaw s) (t : Taken) (e : Lanes) : JournalLaw (exchangeStep t e s) := by
  unfold Machine.exchangeStep
  split
  · exact h.exchangeCompletion _ _ _
  · exact h

/-! ### Takes (R80, R92) -/

/-- What holds at one port after a change there, and at the other before it. -/
theorem Both.get_modify_ind {α : Type} {P : Port → α → Prop} {b : Both α} {x : Port} {f : α → α} (hx : P x (f (b.get x)))
    (hother : ∀ p, p ≠ x → P p (b.get p)) (p : Port) : P p ((b.modify x f).get p) := by
  by_cases hp : p = x
  · subst hp
    simpa using hx
  · rw [Both.get_modify_of_ne _ hp]
    exact hother p hp

/-- R145: Rd moves within the span from Rd to H. -/
theorem JournalLaw.takeJread (h : JournalLaw s) (x : Port) (v : Word) : JournalLaw (takeJread x v s) := by
  by_cases hacc : (s.journals.get x).accepts (jreadIndex v) = true
  · suffices hread : JournalLaw { s with journals := s.journals.modify x fun j => { j with rd := jreadIndex v } } by
      rw [takeJread_of_accepted hacc]
      exact hread.mark _
    refine ⟨h.1, fun p => journalLaw_iff.2 ?_⟩
    exact Both.get_modify_ind
      (P := fun q (j : Journal) => j.Lawful (fun k => Marked s (.slot q k)) (s.slotInFlight q) (s.headInFlight q))
      ((journalLaw_iff.1 (h.2 x)).read (of_decide_eq_true hacc)) (fun q _ => journalLaw_iff.1 (h.2 q)) p
  · rw [takeJread_of_refused hacc]
    exact (h.raise x .indexFault).mark _

theorem JournalLaw.takeCommit (h : JournalLaw s) (v : Word) : JournalLaw (takeCommit v s) := by
  unfold Machine.takeCommit
  split
  · exact h
  · split
    · exact JournalLaw.mark (h.elsewhere rfl rfl rfl) _
    · exact JournalLaw.mark (h.elsewhere rfl rfl rfl) _
    · exact h

theorem JournalLaw.handToOwner (h : JournalLaw s) (x : Trigger) (v : Word) : JournalLaw (handToOwner x v s) := by
  cases x with
  | commit => exact h.takeCommit v
  | enable y => exact JournalLaw.mark (h.elsewhere rfl rfl rfl) _
  | ack y => exact JournalLaw.mark (h.elsewhere rfl rfl rfl) _
  | jread y => exact h.takeJread y v
  | rearm y => exact h.rearm y v

theorem JournalLaw.violate (h : JournalLaw s) (p : Port) (d : Drive) (k : ViolationKind) (n : Nat) (r : Option Nat) :
    JournalLaw (violate p d k n r s) := h.tells (tells_violate p d k n r s)

theorem JournalLaw.actOnTake (h : JournalLaw s) (p : Port) (d : Drive) (n : Nat) (o : Decoded) :
    JournalLaw (actOnTake p d n o s) := by
  unfold Machine.actOnTake
  split
  · exact h.handToOwner _ _
  · exact h.violate _ _ _ _ _
  · exact h

theorem JournalLaw.takeChannel (h : JournalLaw s) (p : Port) (d : Drive) (n off : Nat) :
    JournalLaw (takeChannel p d n off s).1 := by
  unfold Machine.takeChannel
  split
  · exact h
  · split
    · split
      · exact h.takeProducerWrite _ _
      · exact h
    · split
      · exact h.violate _ _ _ _ _
      · exact h.takeConsumerRead _ _

theorem JournalLaw.take (h : JournalLaw s) (p : Port) (d : Drive) : JournalLaw (take p d s) := by
  refine JournalLaw.setAccess ?_ p _
  unfold decodeAndAct
  split
  · exact h.actOnTake _ _ _ _
  · exact h.takeChannel _ _ _ _
  · exact h.actOnTake _ _ _ _
  · exact h
  · exact h
  · exact h

/-! ### Arrivals and the fall of REQ (R92 to R95) -/

theorem JournalLaw.arriveIfRequested (h : JournalLaw s) (p : Port) : JournalLaw (arriveIfRequested p s) := by
  unfold Machine.arriveIfRequested arrive
  split
  · split
    · exact h.setAccess p _
    · exact h.take p _
  · exact h

theorem JournalLaw.present (h : JournalLaw s) (p : Port) (d : Drive) : JournalLaw (present p d s) := by
  have hdrive : JournalLaw (drivePort p d s) := h.elsewhere rfl rfl rfl
  unfold Machine.present
  split
  · exact hdrive.arriveIfRequested p
  · exact hdrive

theorem JournalLaw.takeHeldOf (h : JournalLaw s) (p : Port) : JournalLaw (takeHeldOf p s) := by
  unfold Machine.takeHeldOf
  split
  · exact h.take p _
  · exact h

theorem JournalLaw.takeHeld (h : JournalLaw s) : JournalLaw (takeHeld s) := (h.takeHeldOf .A).takeHeldOf .B

theorem JournalLaw.dropReq (h : JournalLaw s) (p : Port) : JournalLaw (dropReq p s) := by
  unfold Machine.dropReq
  split
  · exact h.elsewhere rfl rfl rfl
  · exact h

/-! ### Completions (R93, R157) -/

theorem JournalLaw.noteReport (h : JournalLaw s) (b : State) (p : Port) : JournalLaw (noteReport b p s) := by
  unfold Machine.noteReport
  split
  · exact h
  · exact h.mark (.report p)

theorem JournalLaw.noteReports (h : JournalLaw s) (b : State) : JournalLaw (noteReports b s) :=
  (h.noteReport b .A).noteReport b .B

theorem JournalLaw.reportParity (h : JournalLaw s) (p : Port) (t : Taken) (e : Lanes) : JournalLaw (reportParity p t e s) := by
  unfold Machine.reportParity
  split
  · split
    · exact (h.offer _ _).raise _ _
    · exact h
  · exact h

theorem JournalLaw.complete (h : JournalLaw s) (p : Port) (t : Taken) (w : Word) (e : Lanes) :
    JournalLaw (complete p t w e s) := by
  have hnoted := ((h.reportParity p t e).exchangeStep t e).noteReports s
  unfold Machine.complete finishPort
  split
  · exact (hnoted.setAccess p _).arriveIfRequested p
  · exact hnoted.setAccess p _

theorem JournalLaw.completeCycleless (h : JournalLaw s) (p : Port) : JournalLaw (completeCycleless p s) := by
  unfold Machine.completeCycleless
  split
  · split
    · exact h.complete p _ _ _
    · exact h
  · exact h

/-! ### The Loader (R114 to R122) -/

theorem JournalLaw.failLoad (h : JournalLaw s) (l : Load) (c : ResultCode) (d : Detail) : JournalLaw (failLoad l c d s) :=
  h.tells (tells_failLoad l c d s) (failLoad_only l c d s).cycle

theorem JournalLaw.finishReading (h : JournalLaw s) (l : Load) : JournalLaw (finishReading l s) := by
  unfold Machine.finishReading
  split
  · exact h.failLoad _ _ _
  · exact JournalLaw.mark (h.elsewhere rfl rfl rfl) _

theorem JournalLaw.loaderReadDone (h : JournalLaw s) (w : Word) (e : Lanes) : JournalLaw (loaderReadDone w e s) := by
  unfold Machine.loaderReadDone
  split
  · split
    · unfold tableReadDone
      split
      · exact h.failLoad _ _ _
      · dsimp only
        split
        · exact h.elsewhere rfl rfl rfl
        · split
          · exact h.finishReading _
          · exact h.elsewhere rfl rfl rfl
    · unfold resumeReadDone
      dsimp only
      split
      · exact h.elsewhere rfl rfl rfl
      · exact h.finishReading _
  · exact h

/-! ### The install (R123 to R129) -/

theorem JournalLaw.endChannel (h : JournalLaw s) (l : Load) (s0 : State) (n : Nat) : JournalLaw (endChannel l s0 s n) := by
  unfold Machine.endChannel
  split
  · exact h
  · rename_i c _
    split
    · exact h
    · have hpass : JournalLaw (match c.pass with
          | some p => s.offer c.desc.producer (abortedPassRecord n p true false s.clock)
          | none => s) := by
        split
        · exact h.offer _ _
        · exact h
      dsimp only
      split
      · exact hpass.offer _ _
      · exact hpass

theorem JournalLaw.dropMemberPending (h : JournalLaw s) (l : Load) (s0 : State) (n : Nat) :
    JournalLaw (dropMemberPending l s0 s n) := by
  unfold Machine.dropMemberPending
  split
  · exact h
  · split
    · split
      · exact (h.modChannel n _).offer _ _
      · exact h
    · exact h

theorem JournalLaw.endGroup (h : JournalLaw s) (l : Load) (s0 : State) (g : Nat) : JournalLaw (endGroup l s0 s g) := by
  unfold Machine.endGroup
  split
  · exact h
  · split
    · exact h
    · exact (h.releasePin g true).foldl (fun _ n hv => hv.dropMemberPending l s0 n) _

theorem JournalLaw.endOldSet (h : JournalLaw s) (l : Load) : JournalLaw (endOldSet l s) :=
  (h.foldl (fun _ n hv => hv.endChannel l s n) indices).foldl (fun _ g hv => hv.endGroup l s g) indices

/-- R132: so does what an install does after the endings. -/
theorem sequencesKept_newSet (l : Load) (s : State) : SequencesKept (endOldSet l s) (installed l s) := by
  have hends : Spares (fun _ => False) s (Machine.endOldSet l s) :=
    spares_endOldSet (fun _ h => h.elim) ⟨fun _ h => h.elim, fun _ h => h.elim⟩
  exact hends.sequences.symm.trans sequencesKept_installed

theorem JournalLaw.install (h : JournalLaw s) : JournalLaw (install s) := by
  unfold Machine.install
  split
  · rename_i l _
    split
    · have hnew := (h.endOldSet l).reports (reports_newSet l s) (by simp) (sequencesKept_newSet l s)
        (installed_only l s).cycle
      exact hnew.takeHeld
    · exact h
  · exact h

/-! ### The part's own events -/

theorem JournalLaw.ownEvent (h : JournalLaw s) (e : Instr) : JournalLaw (ownEvent e s) := by
  unfold Machine.ownEvent
  split
  · exact h.install
  · exact h.expirePass _
  · unfold becomeStale
    split
    · exact h
    · exact ((h.modChannel _ _).mark _).offer _ _
  · exact h.releasePin _ false
  · unfold partialPublication
    split
    · exact h
    · exact ((h.publishMembers _).offer _ _).endGather _
  · exact ((h.publishMembers _).modGroup _ _).mark _
  · exact h

/-! ### Time, holdover and reset (R168 to R175) -/

theorem JournalLaw.clockEdge (h : JournalLaw s) : JournalLaw (clockEdge s) := by
  unfold Machine.clockEdge
  split
  · split
    · exact h.elsewhere rfl rfl rfl
    · exact h.elsewhere rfl rfl rfl
  · exact h

theorem JournalLaw.startHoldover (h : JournalLaw s) : JournalLaw (startHoldover s) := by
  have hcycle : (holdoverEntered s).cycle = s.cycle :=
    (takeHeld_only (holdoverEntered s)).cycle.symm.trans (startHoldover_only s).cycle
  have hslot : ∀ p k, .slot p k ∉ (.part 1 :: (if s.loader.load?.isSome then [.part 2, .part 3] else []) ++
      (indices.filter s.passOpen).map .chanBlock ++ (indices.filter s.gathering).map .groupBlock : List MirrorItem) := by
    intro p k
    split <;> simp
  exact (h.tells (tells_holdoverEntered s) hcycle hslot).takeHeld

theorem JournalLaw.powerFails (h : JournalLaw s) : JournalLaw (powerFails s) := by
  have hpins : JournalLaw { s with pins := { s.pins with pfailN := false } } := h.elsewhere rfl rfl rfl
  unfold Machine.powerFails
  dsimp only
  split
  · exact hpins.startHoldover
  · exact hpins

theorem JournalLaw.leaveReset (h : JournalLaw s) (m : BitVec 2) (c f : Bool) : JournalLaw (leaveReset m c f s) := by
  have hstraps : JournalLaw (sampleStraps m c f s) := h.elsewhere rfl rfl rfl
  have hpower : JournalLaw (if f then Machine.startHoldover (sampleStraps m c f s) else sampleStraps m c f s) := by
    split
    · exact hstraps.startHoldover
    · exact hstraps
  exact (hpower.arriveIfRequested .A).arriveIfRequested .B

theorem JournalLaw.resetFalls (h : JournalLaw s) : JournalLaw (resetFalls s) := by
  unfold Machine.resetFalls
  split
  · exact journalLaw_reset.elsewhere rfl rfl rfl
  · exact h

end JournalLaw
end Sys2Proof.Machine

/-! SUPPORT. The law of the journals (R137) at the end of a Mirror cycle (R132, R143, R144) and at a grant to the Mirror (R132,
R133). -/
namespace Sys2Proof.Machine

section JournalLaw
variable {s t : State} {f : Flight} {p : Port}

/-! ### The item in flight (R132) -/

theorem slotInFlight_of_ne (hf : s.mirror.flight = some f) (hne : ∀ k, f.item ≠ .slot p k) : s.slotInFlight p = none := by
  refine Option.eq_none_iff_forall_ne_some.2 fun k hk => ?_
  obtain ⟨g, hg, hitem⟩ := slotInFlight_eq_some.1 hk
  cases hf.symm.trans hg
  exact hne k hitem

theorem headInFlight_of_ne (hf : s.mirror.flight = some f) (hne : f.item ≠ .head p) : s.headInFlight p = none := by
  refine Option.eq_none_iff_forall_ne_some.2 fun i hi => ?_
  obtain ⟨g, hg, hitem, -⟩ := headInFlight_eq_some.1 hi
  cases hf.symm.trans hg
  exact hne hitem

/-- While no item is in flight the law is that of the two rings. -/
theorem journalLaw_of_landed (hf : t.mirror.flight = none)
    (h : ∀ p, (t.journals.get p).Lawful (fun k => Marked t (.slot p k)) none none) : JournalLaw t := by
  refine ⟨fun g hg => (nomatch hf.symm.trans hg), fun p => journalLaw_iff.2 ?_⟩
  rw [slotInFlight_of_none hf, headInFlight_of_none hf]
  exact h p

/-! ### The end of a cycle (R97, R132, R143, R144) -/

/-- R97: a cycle that is not the Mirror's ends. -/
theorem JournalLaw.cycleEnded (h : JournalLaw s) {c : MCycle} (hc : s.cycle = some c) (hu : c.use ≠ .mirror) :
    JournalLaw (s.cycleEnded c) := by
  refine ⟨h.1.setCycle (fun d hd => ?_) rfl, h.2⟩
  cases hc.symm.trans hd
  exact hu

/-- R143, R144: the item in flight is complete: C moves past a slot, H takes the index of a head word. -/
theorem journalLaw_itemCompleted (h : ∀ p, journalLaw s p) (hf : s.mirror.flight = some f) :
    JournalLaw (itemCompleted f { s with mirror := landFlight f s.mirror }) := by
  have hmarked : ∀ i, Marked { s with mirror := landFlight f s.mirror } i ↔ Marked s i := marked_landFlight hf rfl
  have hlaw := fun p => (journalLaw_iff.1 (h p)).congr fun k => hmarked (.slot p k)
  have hland : ∀ p, (∀ k, f.item ≠ .slot p k) →
      (s.journals.get p).Lawful (fun k => Marked { s with mirror := landFlight f s.mirror } (.slot p k)) none none :=
    fun p hp => (hlaw p).land (slotInFlight_of_ne hf hp)
  have hmodify : ∀ (q : Port) (g : Journal → Journal), (∀ p, p ≠ q → ∀ k, f.item ≠ .slot p k) →
      (g (s.journals.get q)).Lawful (fun k => Marked { s with mirror := landFlight f s.mirror } (.slot q k)) none none →
      JournalLaw { s with mirror := landFlight f s.mirror, journals := s.journals.modify q g } := fun q g hne hq =>
    journalLaw_of_landed rfl (Both.get_modify_ind
      (P := fun p (j : Journal) => j.Lawful (fun k => Marked { s with mirror := landFlight f s.mirror } (.slot p k)) none none)
      hq fun p hp => hland p (hne p hp))
  cases hitem : f.item with
  | slot q k =>
    simp only [itemCompleted, hitem]
    refine (hmodify q _ (fun p hp m e => ?_) ((hlaw q).slotDone (slotInFlight_eq_some.2 ⟨f, hf, hitem⟩))).mark (.head q)
    exact hp (MirrorItem.slot.inj (hitem.symm.trans e)).1.symm
  | head q =>
    simp only [itemCompleted, hitem]
    exact hmodify q _ (fun p _ => by simp [hitem])
      ((hlaw q).headDone (headInFlight_eq_some.2 ⟨f, hf, hitem, rfl⟩) (slotInFlight_of_ne hf (by simp [hitem])))
  | _ =>
    simp only [itemCompleted, hitem]
    exact journalLaw_of_landed rfl fun p => hland p (by simp [hitem])

/-- R132: a Mirror cycle ends: one of the item's earlier cycles, or its last. -/
theorem JournalLaw.mirrorCycleDone (h : JournalLaw s) (c : MCycle) : JournalLaw (mirrorCycleDone (s.cycleEnded c)) := by
  obtain ⟨hflight, hlaw⟩ := h
  have hended : ∀ p, journalLaw (s.cycleEnded c) p := hlaw
  cases hf : s.mirror.flight with
  | none =>
    have hidle : Machine.mirrorCycleDone (s.cycleEnded c) = s.cycleEnded c := by
      rw [Machine.mirrorCycleDone, show (s.cycleEnded c).mirror.flight = none from hf]
    rw [hidle]
    exact ⟨fun g hg => (nomatch hf.symm.trans hg), hended⟩
  | some f =>
    obtain ⟨hpos, hle, -⟩ := hflight f hf
    by_cases hlt : f.granted < f.item.cycles
    · rw [mirrorCycleDone_of_earlier (s := s.cycleEnded c) hf hlt]
      refine ⟨fun g hg => ?_, hended⟩
      cases hf.symm.trans hg
      exact ⟨hpos, hle, fun e => absurd e hlt.ne⟩
    · rw [mirrorCycleDone_of_last (s := s.cycleEnded c) hf (Nat.not_lt.1 hlt)]
      exact journalLaw_itemCompleted hended hf

theorem JournalLaw.memoryCycleEnd (h : JournalLaw s) : JournalLaw (memoryCycleEnd s) := by
  cases hc : s.cycle with
  | none => rwa [memoryCycleEnd_of_none hc]
  | some c =>
    cases hu : c.use with
    | mirror =>
      rw [memoryCycleEnd_of_mirror hc hu]
      exact h.mirrorCycleDone c
    | port p =>
      have hended := h.cycleEnded hc (by simp [hu])
      simp only [Machine.memoryCycleEnd, hc, hu]
      split
      · exact hended.complete p _ _ _
      · exact hended
    | loader =>
      have hended := h.cycleEnded hc (by simp [hu])
      simp only [Machine.memoryCycleEnd, hc, hu]
      exact hended.loaderReadDone _ _

/-! ### The grant (R97, R98, R132, R133) -/

/-- R97: a grant is made while no cycle is in progress. -/
theorem cycle_of_granted {r : Requester} (h : granted s = some r) : s.cycle = none := by
  unfold granted at h
  split at h
  · rename_i hfree
    simp only [Bool.and_eq_true, Option.isNone_iff_eq_none] at hfree
    exact hfree.1.2
  · cases h

/-- R132, R133: the item that an Engine grant serves is the one in flight, or the first dirty one of its kind, which is started. -/
theorem servedFlight_cases (hlaw : FlightLaw s) (hc : s.cycle = none) (h : servedFlight s = some f) :
    (s.mirror.flight = some f ∧ f.granted ≠ 0) ∨
      (s.mirror.flight = none ∧ f.item ∈ s.mirror.dirty ∧ slotInOrder s f.item = true ∧ f = newFlight s f.item) := by
  cases hfl : s.mirror.flight with
  | some g =>
    obtain ⟨hpos, -, -⟩ := hlaw g hfl
    have hleft := hlaw.lt_cycles (fun c hs => nomatch hc.symm.trans hs) hfl
    simp only [servedFlight, hfl, if_pos hleft, Option.some.injEq] at h
    subst h
    exact .inl ⟨rfl, Nat.ne_of_gt hpos⟩
  | none =>
    simp only [servedFlight, hfl, Option.map_eq_some_iff] at h
    obtain ⟨i, hi, rfl⟩ := h
    obtain ⟨hdirty, horder⟩ := List.mem_filter.1 (List.mem_of_mem_filter (pickFrom_mem hi))
    exact .inr ⟨rfl, hdirty, horder, rfl⟩

/-- R132: a further cycle of the item in flight: what waits and what is in flight stay. -/
theorem journalLaw_further (h : journalLaw s p) (hj : t.journals = s.journals) (hm : t.mirror = mirrorGranted s f)
    (hf : s.mirror.flight = some f) (hpos : f.granted ≠ 0) : journalLaw t p := by
  have hflight : t.mirror.flight = some { f with granted := f.granted + 1 } := by
    rw [hm]
    rfl
  have hslot : t.slotInFlight p = s.slotInFlight p := by
    rw [State.slotInFlight, State.slotInFlight, hflight, hf]
    rfl
  have hhead : t.headInFlight p = s.headInFlight p := by
    rw [State.headInFlight, State.headInFlight, hflight, hf]
    rfl
  have hmarked : ∀ i, Marked t i ↔ Marked s i := by
    intro i
    rw [Marked, Marked, hflight, hf, hm, mem_dirty_mirrorGranted]
    simp [hpos]
  rw [journalLaw_iff, hj, hslot, hhead]
  exact (journalLaw_iff.1 h).congr fun k => hmarked (.slot p k)

/-- R133, R144: an item is started: the first slot that waits, a head word that carries C, or another. -/
theorem journalLaw_started (h : journalLaw s p) (hj : t.journals = s.journals) (hm : t.mirror = mirrorGranted s f)
    (hf : s.mirror.flight = none) (hdirty : f.item ∈ s.mirror.dirty) (horder : slotInOrder s f.item = true)
    (hnew : f = newFlight s f.item) : journalLaw t p := by
  have hflight : t.mirror.flight = some { f with granted := f.granted + 1 } := by
    rw [hm]
    rfl
  have hwas : ∀ i, Marked s i ↔ i ∈ s.mirror.dirty := by
    intro i
    simp [Marked, hf]
  have hmarked : ∀ i, Marked t i ↔ Marked s i ∧ i ≠ f.item := by
    intro i
    rw [hwas, Marked, hflight, hm, mem_dirty_mirrorGranted, hnew]
    simp [newFlight]
  have hlaw := journalLaw_iff.1 h
  rw [slotInFlight_of_none hf, headInFlight_of_none hf] at hlaw
  rw [journalLaw_iff, hj]
  by_cases hslot : ∃ k, f.item = .slot p k
  · obtain ⟨k, hitem⟩ := hslot
    rw [slotInFlight_eq_some.2 ⟨_, hflight, hitem⟩, headInFlight_of_ne hflight (by simp [hitem])]
    refine (hlaw.startSlot ((hwas _).2 (hitem ▸ hdirty)) fun m hm => ?_).congr fun m => ?_
    · exact slotInOrder_iff.1 horder p k m hitem ((hwas _).1 hm)
    · simp [hmarked, hitem]
  · have hslots : ∀ k, f.item ≠ .slot p k := not_exists.1 hslot
    rw [slotInFlight_of_ne hflight hslots]
    have hsame := hlaw.congr fun k => (hmarked (.slot p k)).trans (and_iff_left (hslots k).symm)
    by_cases hitem : f.item = .head p
    · have hindex : headIndexOf (f.content.getD 0 0) = (s.journals.get p).c := by
        rw [hnew, hitem]
        exact (headWord_fields (s.journals.get p)).1
      rw [headInFlight_eq_some.2 ⟨_, hflight, hitem, hindex⟩]
      exact hsame.startHead
    · rw [headInFlight_of_ne hflight hitem]
      exact hsame

/-- R132, R133: a grant to the Mirror. -/
theorem JournalLaw.granted (h : JournalLaw s) (hc : s.cycle = none) (hf : servedFlight s = some f)
    (hj : t.journals = s.journals) (hm : t.mirror = mirrorGranted s f) (hcycle : t.cycle = some (flightCycle s.mirror f)) :
    JournalLaw t := by
  obtain ⟨hflight, hlaw⟩ := h
  obtain ⟨hleft, -⟩ := servedFlight_eq_some hf
  refine ⟨fun g hg => ?_, fun p => ?_⟩
  · rw [hm] at hg
    cases hg
    exact ⟨Nat.succ_pos _, hleft, fun _ => ⟨_, hcycle, rfl⟩⟩
  · rcases servedFlight_cases hflight hc hf with ⟨hfl, hpos⟩ | ⟨hfl, hdirty, horder, hnew⟩
    · exact journalLaw_further (hlaw p) hj hm hfl hpos
    · exact journalLaw_started (hlaw p) hj hm hfl hdirty horder hnew

theorem JournalLaw.grant (h : JournalLaw s) : JournalLaw (grant s) := by
  cases hg : Machine.granted s with
  | none => exact h.elsewhere rfl (by rw [grant_mirror, onGrant_of_none hg]) (by rw [grant_cycle, onGrant_of_none hg])
  | some r =>
    have hc := cycle_of_granted hg
    have hother : (Machine.grant s).mirror = s.mirror → JournalLaw (Machine.grant s) := by
      intro hm
      refine ⟨h.1.setCycle (fun c hs => nomatch hc.symm.trans hs) (by rw [hm]), fun p => ?_⟩
      have hp := h.2 p
      unfold journalLaw slotWaits at hp ⊢
      rwa [hm]
    cases r with
    | port p => exact hother (by rw [grant_mirror, onGrant_of_some hg]; rfl)
    | engine =>
      cases hl : loaderNext s with
      | some a => exact hother ((grant_to_engine hg).2 a hl).2.1
      | none =>
        cases hf : servedFlight s with
        | none =>
          refine hother ?_
          rw [grant_mirror, onGrant_of_some hg, mirrorAfter, engineFlight, hl, hf]
          rfl
        | some f =>
          obtain ⟨hcycle, hm, -⟩ := grant_to_mirror hg hl hf
          exact h.granted hc hf rfl hm hcycle


/-! ### Every step -/

theorem JournalLaw.ungranted {o : State → State} (h : JournalLaw (o s)) : JournalLaw (ungranted o s) := h.noteReports s

theorem JournalLaw.event {o : State → State} (h : JournalLaw (o s)) : JournalLaw (event o s) :=
  JournalLaw.grant (JournalLaw.ungranted h)

end JournalLaw

/-- Settles O57: the law holds after every operation, after its report marks and after its grant. -/
theorem everyStepKeepsTheJournalLaw : Obligations.EveryStepKeepsTheJournalLaw := fun _ _ hs h =>
  step_keeps JournalLaw
    (hqueue := fun _ _ hu => hu.elsewhere rfl rfl rfl)
    (hown := fun e _ _ hu => (hu.ownEvent e).event)
    (hpresent := fun p d _ hu => (hu.present p d).event)
    (hdrop := fun p _ hu => (hu.dropReq p).event)
    (hend := fun _ hu => hu.memoryCycleEnd.event)
    (hcycleless := fun p _ hu => (hu.completeCycleless p).event)
    (hclock := fun _ hu => hu.clockEdge.event)
    (hpower := fun _ hu => hu.powerFails.event)
    (hpowerTogether := fun _ hu => hu.powerFails.ungranted)
    (hfall := fun _ hu => hu.resetFalls)
    (hrise := fun m c f _ _ hu => (hu.leaveReset m c f).event)
    hs h

end Sys2Proof.Machine

/-! SUPPORT. The attention lines (R163): what the law of a line rests on, and how raises, offers and the two takes of the
attention unit bear on it. -/
namespace Sys2Proof.Machine

/-! ### One line -/

theorem lineFor_comm (reported enable : BitVec 12) : lineFor reported enable = lineFor enable reported := by
  rw [lineFor, lineFor, BitVec.and_comm]

/-- R163: "shares a cause". -/
theorem lineFor_eq_true_iff (reported enable : BitVec 12) :
    lineFor reported enable = true ↔ ∃ n : Nat, reported.getLsbD n = true ∧ enable.getLsbD n = true := by
  have hbits : causeBits (reported.setWidth 32) = reported := by
    rw [causeBits, ← BitVec.setWidth_eq_extractLsb' (by decide), BitVec.setWidth_setWidth_of_le _ (by decide),
      BitVec.setWidth_eq]
  have hwide : ∀ n : Fin 12, (reported.setWidth 32).getLsbD n = reported.getLsbD n := fun n => by
    rw [BitVec.getLsbD_setWidth, decide_eq_true (by omega), Bool.true_and]
  rw [← hbits, lineFor_causeBits, decide_eq_true_iff, hbits]
  simp only [hwide]
  exact ⟨fun ⟨n, hn⟩ => ⟨n, hn⟩, fun ⟨n, hn⟩ => ⟨⟨n, BitVec.lt_of_getLsbD hn.1⟩, hn⟩⟩

/-- R163: the line is as the two sets make it. -/
def Attention.LineFits (a : Attention) : Prop := a.line = lineFor a.reported a.enable

theorem lineLaw_iff {s : State} : LineLaw s ↔ ∀ p, (s.attention.get p).LineFits :=
  forall_congr' fun _ => (iff_congr Iff.rfl (lineFor_eq_true_iff _ _).symm).trans Bool.eq_iff_iff.symm

theorem attention_takeEnable (x : Port) (v : Word) (s : State) : (takeEnable x v s).attention =
    s.attention.modify x fun a => { a with enable := causeBits v, line := lineFor a.reported (causeBits v) } := rfl

theorem attention_takeAck (x : Port) (v : Word) (s : State) : (takeAck x v s).attention =
    s.attention.modify x fun a => { a with latched := a.latched &&& ~~~(causeBits v &&& eventCauses) } := rfl

section LineLaw
variable {s t : State}

/-! ### What keeps the law -/

/-- The law speaks of the attention states alone. -/
theorem LineLaw.elsewhere (h : LineLaw s) (ha : t.attention = s.attention) : LineLaw t := by
  rw [LineLaw, ha]
  exact h

/-- R155: causes are latched, and the sets and the lines stay. -/
theorem LineLaw.reports {rs : Port → List Record} {cs : Port → BitVec 12} {is : List MirrorItem} (h : LineLaw s)
    (hr : Reports s t rs cs is) : LineLaw t := fun p => by
  rw [hr.attention p]
  exact h p

theorem LineLaw.tells {rs : Port → List Record} {cs : Port → BitVec 12} {is : List MirrorItem} (h : LineLaw s)
    (ht : Tells s t rs cs is) : LineLaw t := h.reports ht.toReports

/-- The attention state of one port changes, and its line then fits its sets. -/
theorem LineLaw.modify {x : Port} {f : Attention → Attention} (h : LineLaw s) (ha : t.attention = s.attention.modify x f)
    (hf : (f (s.attention.get x)).LineFits) : LineLaw t := by
  rw [lineLaw_iff, ha]
  exact Both.get_modify_ind (P := fun _ (a : Attention) => a.LineFits) hf fun p _ => lineLaw_iff.1 h p

theorem LineLaw.raise (h : LineLaw s) (p : Port) (c : Cause) : LineLaw (s.raise p c) := h.tells (tells_raise s p c)

theorem LineLaw.offer (h : LineLaw s) (p : Port) (r : Record) : LineLaw (s.offer p r) := h.tells (tells_offer s p r)

theorem LineLaw.foldl {β : Type} {f : State → β → State} (h : LineLaw s) (hf : ∀ v b, LineLaw v → LineLaw (f v b))
    (bs : List β) : LineLaw (bs.foldl f s) := List.foldlRecOn bs f h fun v hv b _ => hf v b hv

/-! ### The attention unit and the arbiter (R158 to R163) -/

/-- R160: the line is set afresh. -/
theorem LineLaw.takeEnable (h : LineLaw s) (x : Port) (v : Word) : LineLaw (takeEnable x v s) :=
  h.modify (attention_takeEnable x v s) rfl

/-- R158: the line stays. -/
theorem LineLaw.takeAck (h : LineLaw s) (x : Port) (v : Word) : LineLaw (takeAck x v s) :=
  h.modify (attention_takeAck x v s) (lineLaw_iff.1 h x)

/-- R163: the report write is complete, and the line is set afresh from what it carried. -/
theorem LineLaw.itemCompleted (h : LineLaw s) (f : Flight) : LineLaw (itemCompleted f s) := by
  unfold Machine.itemCompleted
  split
  · exact h
  · exact h
  · exact h.modify (f := fun a => { a with
      reported := causeBits (f.content.getD 0 0), line := lineFor (causeBits (f.content.getD 0 0)) a.enable }) rfl rfl
  · exact h

theorem LineLaw.mirrorCycleDone (h : LineLaw s) : LineLaw (mirrorCycleDone s) := by
  unfold Machine.mirrorCycleDone
  split
  · split
    · exact h
    · exact LineLaw.itemCompleted (s := { s with mirror := landFlight _ s.mirror }) h _
  · exact h

/-- R161: a grant advances a report sequence at most. -/
theorem LineLaw.grant (h : LineLaw s) : LineLaw (grant s) := fun p => by
  obtain ⟨n, hn⟩ := grant_attention_get (s := s) p
  rw [hn]
  exact h p

theorem attention_noteReports (b s : State) : (noteReports b s).attention = s.attention := by rw [noteReports_eq]

theorem LineLaw.noteReports (h : LineLaw s) (b : State) : LineLaw (noteReports b s) :=
  h.elsewhere (attention_noteReports b s)

theorem LineLaw.ungranted {f : State → State} (h : LineLaw (f s)) : LineLaw (ungranted f s) := h.noteReports s

theorem LineLaw.event {f : State → State} (h : LineLaw (f s)) : LineLaw (event f s) := LineLaw.grant h.ungranted

end LineLaw
end Sys2Proof.Machine

/-! SUPPORT. The law of the attention lines (R163) through the operations of the other units, which offer records, raise causes
and leave the sets and the lines alone. -/
namespace Sys2Proof.Machine

section LineLaw
variable {s : State}

/-! ### The exchange unit (R6 to R50) -/

theorem attention_endGather (g : Nat) (s : State) : (endGather g s).attention = s.attention := rfl

theorem attention_frameTick (g : Nat) (s : State) : (frameTick g s).attention = (publishMembers g s).attention := rfl

theorem LineLaw.publishMembers (h : LineLaw s) (g : Nat) : LineLaw (publishMembers g s) :=
  h.foldl (fun v n hv => hv.tells (tells_publishPending v n)) _

theorem LineLaw.memberGained (h : LineLaw s) (g : Nat) : LineLaw (memberGained g s) := by
  have hstart : LineLaw (startGather g s) := by
    unfold startGather
    split
    · split <;> exact h
    · exact h
  unfold Machine.memberGained completeGather
  split
  · split
    · exact (hstart.publishMembers g).elsewhere (attention_endGather g _)
    · exact hstart
  · exact h

theorem LineLaw.closePass (h : LineLaw s) (n : Nat) (q : Word) : LineLaw (closePass n q s) := by
  unfold Machine.closePass
  split
  · exact h
  rename_i c hc
  split
  · exact h
  split
  swap
  · exact h
  split
  · exact h.tells (tells_faultPass n c _ false _ s)
  · split
    · exact h.tells (tells_closeIntoLive hc _)
    · exact (h.tells (tells_pendBuffer n _ c _ s)).memberGained _

theorem LineLaw.expirePass (h : LineLaw s) (n : Nat) : LineLaw (expirePass n s) := by
  unfold Machine.expirePass
  split
  · exact h
  rename_i c _
  split
  · exact h
  · exact h.tells (tells_faultPass n c _ true _ s)

theorem LineLaw.closePin (h : LineLaw s) (g : Nat) : LineLaw (closePin g s) := by
  have hdrop := h.tells (tells_dropPin g s)
  unfold Machine.closePin
  split
  · exact h
  · dsimp only
    split
    · exact (hdrop.offer _ _).raise _ _
    · exact hdrop

theorem LineLaw.releasePin (h : LineLaw s) (g : Nat) (i : Bool) : LineLaw (releasePin g i s) := by
  unfold Machine.releasePin
  split
  · exact h
  · exact ((h.tells (tells_dropPin g s)).offer _ _).raise _ _

theorem LineLaw.exchangeCompletion (h : LineLaw s) (a : ChannelAccess) (wr failed : Bool) :
    LineLaw (exchangeCompletion a wr failed s) := by
  unfold Machine.exchangeCompletion
  split
  · split
    · split
      · exact h.closePass _ _
      · exact h
    · exact h
  · split
    · exact h
    · rename_i c _
      have htaint : LineLaw (if failed then taintPin c.desc.group s else s) := by
        split
        · exact h.tells (tells_taintPin _ s)
        · exact h
      dsimp only
      split
      · exact htaint.closePin _
      · exact htaint

/-! ### Takes and arrivals (R80, R92 to R95) -/

theorem attention_rearm (x : Port) (v : Word) (s : State) : (rearm x v s).attention = s.attention := by rw [rearm_eq]

/-- R6, R9: a producer write reports nothing when it is taken. -/
theorem attention_takeProducerWrite (n off : Nat) (s : State) : (takeProducerWrite n off s).1.attention = s.attention := by
  have hopen : (openPass n s).attention = s.attention := by
    unfold openPass
    split
    · split <;> rfl
    · rfl
  unfold takeProducerWrite
  dsimp only
  split <;> exact hopen

/-- R44, R47: nor does a consumer read. -/
theorem attention_takeConsumerRead (n off : Nat) (s : State) : (takeConsumerRead n off s).1.attention = s.attention := by
  have hopen : ∀ g, (openPin g s).attention = s.attention := fun g => by
    unfold openPin
    split
    · split
      · exact foldl_field State.attention pinMember (fun u m => (pinMember_keeps u m).2.2) _ _
      · rfl
    · rfl
  unfold takeConsumerRead
  split
  · rfl
  · dsimp only
    split <;> exact hopen _

theorem LineLaw.takeJread (h : LineLaw s) (x : Port) (v : Word) : LineLaw (takeJread x v s) := by
  unfold Machine.takeJread
  split
  · exact h
  · exact h.raise x .indexFault

theorem LineLaw.takeCommit (h : LineLaw s) (v : Word) : LineLaw (takeCommit v s) := by
  unfold Machine.takeCommit
  split
  · exact h
  · split <;> exact h

theorem LineLaw.handToOwner (h : LineLaw s) (x : Trigger) (v : Word) : LineLaw (handToOwner x v s) := by
  cases x with
  | commit => exact h.takeCommit v
  | enable y => exact h.takeEnable y v
  | ack y => exact h.takeAck y v
  | jread y => exact h.takeJread y v
  | rearm y => exact h.elsewhere (attention_rearm y v s)

theorem LineLaw.actOnTake (h : LineLaw s) (p : Port) (d : Drive) (n : Nat) (o : Decoded) : LineLaw (actOnTake p d n o s) := by
  unfold Machine.actOnTake
  split
  · exact h.handToOwner _ _
  · exact h.tells (tells_violate _ _ _ _ _ s)
  · exact h

theorem LineLaw.takeChannel (h : LineLaw s) (p : Port) (d : Drive) (n off : Nat) : LineLaw (takeChannel p d n off s).1 := by
  unfold Machine.takeChannel
  split
  · exact h
  · split
    · split
      · exact h.elsewhere (attention_takeProducerWrite n off s)
      · exact h
    · split
      · exact h.tells (tells_violate _ _ _ _ _ s)
      · exact h.elsewhere (attention_takeConsumerRead n off s)

theorem LineLaw.take (h : LineLaw s) (p : Port) (d : Drive) : LineLaw (take p d s) := by
  change LineLaw (decodeAndAct p d s).1
  unfold decodeAndAct
  split
  · exact h.actOnTake _ _ _ _
  · exact h.takeChannel _ _ _ _
  · exact h.actOnTake _ _ _ _
  · exact h
  · exact h
  · exact h

theorem LineLaw.arriveIfRequested (h : LineLaw s) (p : Port) : LineLaw (arriveIfRequested p s) := by
  unfold Machine.arriveIfRequested arrive
  split
  · split
    · exact h
    · exact h.take p _
  · exact h

theorem LineLaw.present (h : LineLaw s) (p : Port) (d : Drive) : LineLaw (present p d s) := by
  have hdrive : LineLaw (drivePort p d s) := h
  unfold Machine.present
  split
  · exact hdrive.arriveIfRequested p
  · exact hdrive

theorem LineLaw.takeHeld (h : LineLaw s) : LineLaw (takeHeld s) := by
  have hone : ∀ p v, LineLaw v → LineLaw (takeHeldOf p v) := fun p v hv => by
    unfold takeHeldOf
    split
    · exact hv.take p _
    · exact hv
  exact hone .B _ (hone .A s h)

theorem LineLaw.dropReq (h : LineLaw s) (p : Port) : LineLaw (dropReq p s) := by
  unfold Machine.dropReq
  split <;> exact h

/-! ### Completions (R93, R103) -/

theorem LineLaw.completionEffects (h : LineLaw s) (t : Taken) (p : Port) (e : Lanes) :
    LineLaw (completionEffects t p e s) := by
  have hparity : LineLaw (reportParity p t e s) := by
    unfold reportParity
    split
    · split
      · exact (h.offer _ _).raise _ _
      · exact h
    · exact h
  unfold Machine.completionEffects exchangeStep
  split
  · exact hparity.exchangeCompletion _ _ _
  · exact hparity

theorem LineLaw.complete (h : LineLaw s) (p : Port) (t : Taken) (w : Word) (e : Lanes) : LineLaw (complete p t w e s) := by
  have hnoted := (h.completionEffects t p e).noteReports s
  unfold Machine.complete finishPort
  split
  · exact LineLaw.arriveIfRequested (s := State.setAccess _ p .idle) hnoted p
  · exact hnoted

theorem LineLaw.completeCycleless (h : LineLaw s) (p : Port) : LineLaw (completeCycleless p s) := by
  unfold Machine.completeCycleless
  split
  · split
    · exact h.complete p _ _ _
    · exact h
  · exact h

/-! ### The Loader (R114 to R122) and the end of a cycle (R97) -/

theorem LineLaw.finishReading (h : LineLaw s) (l : Load) : LineLaw (finishReading l s) := by
  unfold Machine.finishReading
  split
  · exact h.tells (tells_failLoad l _ _ s)
  · exact h

theorem LineLaw.loaderReadDone (h : LineLaw s) (w : Word) (e : Lanes) : LineLaw (loaderReadDone w e s) := by
  unfold Machine.loaderReadDone tableReadDone resumeReadDone
  split
  · split
    · split
      · exact h.tells (tells_failLoad _ _ _ s)
      · dsimp only
        split
        · exact h
        · split
          · exact h.finishReading _
          · exact h
    · dsimp only
      split
      · exact h
      · exact h.finishReading _
  · exact h

theorem LineLaw.memoryCycleEnd (h : LineLaw s) : LineLaw (memoryCycleEnd s) := by
  unfold Machine.memoryCycleEnd
  split
  · exact h
  · rename_i c _
    have hended : LineLaw (s.cycleEnded c) := h
    dsimp only
    split
    · split
      · exact hended.complete _ _ _ _
      · exact hended
    · exact hended.loaderReadDone _ _
    · exact hended.mirrorCycleDone

/-! ### The install (R123 to R129) -/

theorem LineLaw.endGroup {l : Load} {s0 : State} (h : LineLaw s) (g : Nat) : LineLaw (endGroup l s0 s g) := by
  have hdrop : ∀ v n, LineLaw v → LineLaw (dropMemberPending l s0 v n) := fun v n hv => by
    unfold dropMemberPending
    split
    · exact hv
    · split
      · split
        · exact LineLaw.offer (s := State.modChannel v n _) hv _ _
        · exact hv
      · exact hv
  unfold Machine.endGroup
  split
  · exact h
  · split
    · exact h
    · exact (h.releasePin g true).foldl hdrop _

theorem LineLaw.endOldSet (h : LineLaw s) (l : Load) : LineLaw (endOldSet l s) := by
  have hchannels : LineLaw (indices.foldl (endChannel l s) s) :=
    h.reports (Reports.foldl_records (fun u n hu => reports_endChannel (s := s) l hu n) indices s rfl)
  exact hchannels.foldl (fun _ g hv => hv.endGroup g) indices

theorem LineLaw.install (h : LineLaw s) : LineLaw (install s) := by
  unfold Machine.install
  split
  · rename_i l _
    split
    · exact ((h.endOldSet l).reports (reports_newSet l s)).takeHeld
    · exact h
  · exact h

/-! ### Time, power and reset (R60 to R71, R168 to R175) -/

theorem LineLaw.ownEvent (h : LineLaw s) (e : Instr) : LineLaw (ownEvent e s) := by
  unfold Machine.ownEvent
  split
  · exact h.install
  · exact h.expirePass _
  · rename_i n
    unfold becomeStale
    split
    · exact h
    · exact LineLaw.offer (s := (s.modChannel n _).mark _) h _ _
  · exact h.releasePin _ false
  · unfold partialPublication
    split
    · exact h
    · exact ((h.publishMembers _).offer _ _).elsewhere (attention_endGather _ _)
  · exact (h.publishMembers _).elsewhere (attention_frameTick _ s)
  · exact h

theorem LineLaw.clockEdge (h : LineLaw s) : LineLaw (clockEdge s) := by
  unfold Machine.clockEdge
  split
  · split <;> exact h
  · exact h

theorem LineLaw.startHoldover (h : LineLaw s) : LineLaw (startHoldover s) :=
  (h.tells (tells_holdoverEntered s)).takeHeld

theorem LineLaw.powerFails (h : LineLaw s) : LineLaw (powerFails s) := by
  have hpins : LineLaw { s with pins := { s.pins with pfailN := false } } := h
  unfold Machine.powerFails
  dsimp only
  split
  · exact hpins.startHoldover
  · exact hpins

theorem LineLaw.leaveReset (h : LineLaw s) (m : BitVec 2) (c f : Bool) : LineLaw (leaveReset m c f s) := by
  have hstraps : LineLaw (sampleStraps m c f s) := h
  have hpower : LineLaw (if f then Machine.startHoldover (sampleStraps m c f s) else sampleStraps m c f s) := by
    split
    · exact hstraps.startHoldover
    · exact hstraps
  exact (hpower.arriveIfRequested .A).arriveIfRequested .B

/-- R166: a fall of RST_N leaves both lines low and every set empty. -/
theorem LineLaw.resetFalls (h : LineLaw s) : LineLaw (resetFalls s) := by
  unfold Machine.resetFalls
  split
  · exact lineLaw_reset.elsewhere rfl
  · exact h

end LineLaw

/-- Settles O54: the sets and the line of a port change together, at an ENABLE take, at the completion of a report write and at
a reset; every other operation leaves all three. -/
theorem everyStepKeepsTheLineLaw : Obligations.EveryStepKeepsTheLineLaw := fun _ _ hs h =>
  step_keeps LineLaw
    (hqueue := fun _ _ hu => hu)
    (hown := fun e _ _ hu => (hu.ownEvent e).event)
    (hpresent := fun p d _ hu => (hu.present p d).event)
    (hdrop := fun p _ hu => (hu.dropReq p).event)
    (hend := fun _ hu => hu.memoryCycleEnd.event)
    (hcycleless := fun p _ hu => (hu.completeCycleless p).event)
    (hclock := fun _ hu => hu.clockEdge.event)
    (hpower := fun _ hu => hu.powerFails.event)
    (hpowerTogether := fun _ hu => hu.powerFails.ungranted)
    (hfall := fun _ hu => hu.resetFalls)
    (hrise := fun m c f _ _ hu => (hu.leaveReset m c f).event)
    hs h

end Sys2Proof.Machine

/-! SUPPORT. The takes of the attention unit (R158, R160): each changes the attention state of its own port and marks that
port's report word. -/
namespace Sys2Proof.Machine

/-! ### The causes in their bits (R154, R163) -/

/-- R154: "bit n stands for cause n". -/
theorem getLsbD_bit (c : Cause) (n : Nat) : c.bit.getLsbD n = true ↔ n = c.number :=
  (getLsbD_causeIf c true n).trans (and_iff_left rfl)

/-- R154: the event causes by their numbers. -/
theorem getLsbD_eventCauses : ∀ n < 12, eventCauses.getLsbD n = [1, 2, 3, 6, 7, 8, 9, 10].contains n := by decide

/-- R158: an event cause that the value names is cleared, and no other cause. -/
theorem getLsbD_acked (latched : BitVec 12) (v : Word) {n : Nat} (hn : n < 12) :
    (latched &&& ~~~(causeBits v &&& eventCauses)).getLsbD n =
      (latched.getLsbD n && !(v.getLsbD n && [1, 2, 3, 6, 7, 8, 9, 10].contains n)) := by
  rw [← getLsbD_eventCauses n hn]
  simp [causeBits, hn]

/-- R160, R163: the line for the enable set that a value gives. -/
theorem lineFor_enabled (reported : BitVec 12) (v : Word) : lineFor reported (causeBits v) =
    decide (∃ n : Fin 12, reported.getLsbD n = true ∧ v.getLsbD n = true) := by
  simp only [lineFor_comm reported, lineFor_causeBits, and_comm]

/-! ### The takes -/

theorem decodeAndAct_enable (p : Port) (v : Word) (s : State) : decodeAndAct p (triggerDrive (.enable p) v) s =
    (takeEnable p v s, .control (.trigger (.enable p)) true ((triggerDrive (.enable p) v).addr.setWidth 17)) := by
  cases p <;> rfl

theorem decodeAndAct_ack (p : Port) (v : Word) (s : State) : decodeAndAct p (triggerDrive (.ack p) v) s =
    (takeAck p v s, .control (.trigger (.ack p)) true ((triggerDrive (.ack p) v).addr.setWidth 17)) := by
  cases p <;> rfl

/-- R92, R157: an access is taken that changes the attention state of its own port and marks its report word, before the
grant. -/
theorem event_of_attentionTake {u : State} {p : Port} {d : Drive} {o : Decoded} {f : Attention → Attention}
    (ht : Takes u p)
    (hd : decodeAndAct p d (drivePort p d u) =
      ({ drivePort p d u with attention := u.attention.modify p f }.mark (.report p), o))
    (ho : o.isViolation = false) :
    ∃ w, event (present p d) u = grant w ∧
      w = { u.taking p d o false with attention := u.attention.modify p f, mirror := w.mirror } ∧
      Marks u w [.report p] := by
  let x : State := { u.taking p d o false with attention := u.attention.modify p f }
  have hpresent : present p d u = x.mark (.report p) := (present_of_takes ht d).trans (take_of_allowed hd ho)
  have hothers : ∀ q, q ≠ p → pendingSet (x.mark (.report p)) q = pendingSet u q := fun q hq =>
    pendingSet_congr (congrArg Attention.latched (Both.get_modify_of_ne _ hq f)) rfl (fun _ => rfl) ⟨rfl, rfl⟩
  have hmarks : Marks u (x.mark (.report p)) [.report p] := (Marks.of_mirror rfl : Marks u x []).trans (marks_mark x _)
  exact ⟨noteReports u (x.mark (.report p)), by rw [event, ungranted, hpresent], noteReports_eq u _,
    marks_noteReports_of_one hmarks hothers⟩

/-- Settles O21: the line that the take sets is the one of the sets by their bits. -/
theorem anEnableTakeReplacesTheEnableSet : Obligations.AnEnableTakeReplacesTheEnableSet := by
  intro s p v u d ht
  have hexec : exec (.enableTake p v) s = .next (event (present p d) u) := rfl
  clear_value u
  obtain ⟨w, hevent, hw, hmarks⟩ := event_of_attentionTake ht (decodeAndAct_enable p v (drivePort p d u)) rfl
  simp only [lineFor_enabled] at hw
  exact ⟨w, hexec.trans (congrArg _ hevent), hw, hmarks⟩

/-- Settles O22: the causes cleared, bit by bit; a take of this kind leaves what the level causes rest on. -/
theorem anAckTakeClearsTheEventCausesItNames : Obligations.AnAckTakeClearsTheEventCausesItNames := by
  refine ⟨fun c n => (getLsbD_bit c n).trans (by cases c <;> rfl), ?_⟩
  intro s p v u d ht
  have hexec : exec (.ackTake p v) s = .next (event (present p d) u) := rfl
  clear_value u
  obtain ⟨w, hevent, hw, hmarks⟩ := event_of_attentionTake ht (decodeAndAct_ack p v (drivePort p d u)) rfl
  have hlatched : (w.attention.get p).latched =
      (u.attention.get p).latched &&& ~~~(causeBits v &&& eventCauses) := by
    rw [hw]
    exact congrArg Attention.latched (Both.get_modify_self _ _ _)
  have hlevels : levelSet w p = levelSet u p := by
    rw [hw]
    rfl
  refine ⟨w, hexec.trans (congrArg _ hevent), fun n hn => ?_, hlevels, ?_, hmarks⟩
  · rw [hlatched, getLsbD_acked _ v hn]
  · rw [hlatched]
    refine hw.trans ?_
    cases p <;> rfl

end Sys2Proof.Machine

/-! SUPPORT. The start of holdover (R172 to R174): the fields it leaves, that it brings nothing due, and that a fall of RST_N
which comes together with it discards it. -/
namespace Sys2Proof.Machine

section Entered
variable {s t : State} {l : Load}

/-! ### What the start of holdover leaves (R173, R174) -/

/-- The fall of PFAIL_N as far as the pin goes. -/
def State.pfailLow (s : State) : State := { s with pins := { s.pins with pfailN := false } }

/-- R173: before the load is abandoned, the start of holdover has changed the part state and the exchange side alone. -/
theorem exists_holdoverEntered (s : State) : ∃ v, OnlyExchange { s with partState := .holdover } v ∧
    holdoverEntered s = abandonLoad v :=
  ⟨_, OnlyExchange.foldl _ cancelGather_only indices (OnlyExchange.foldl _ abortPass_only indices
    (((OnlyExchange.refl { s with partState := .holdover }).mark (.part 1)).offerBoth (holdoverRecord s))), rfl⟩

theorem ports_abandonLoad (s : State) : (abandonLoad s).ports = s.ports := by
  unfold abandonLoad
  split
  · rfl
  · exact (reportLoadEnd_fields _ _ _ _).1
  · exact (reportLoadEnd_fields _ _ _ _).1

/-- R173: the start of holdover changes these fields alone. -/
theorem holdoverEntered_eq (s : State) : holdoverEntered s = { s with
    partState := .holdover, channels := (holdoverEntered s).channels, groups := (holdoverEntered s).groups
    loader := (holdoverEntered s).loader, remembered := (holdoverEntered s).remembered
    lastResult := (holdoverEntered s).lastResult, journals := (holdoverEntered s).journals
    attention := (holdoverEntered s).attention, mirror := (holdoverEntered s).mirror } := by
  obtain ⟨v, hv, heq⟩ := exists_holdoverEntered s
  have hfields := (hv.toAccess.trans (abandonLoad_only v)).eq
  rw [ports_abandonLoad, hv.ports, ← heq] at hfields
  exact hfields

theorem pins_holdoverEntered (s : State) : (holdoverEntered s).pins = s.pins := by rw [holdoverEntered_eq]

theorem ports_holdoverEntered (s : State) : (holdoverEntered s).ports = s.ports := by rw [holdoverEntered_eq]

/-- R173 step 1, R174: every pass is aborted, and nothing else of a channel changes. -/
theorem channel?_holdoverEntered (s : State) (n : Nat) :
    (holdoverEntered s).channel? n = (s.channel? n).map fun c => { c with pass := none } := by
  have hstart : ∀ m, (({ s with partState := .holdover }.mark (.part 1)).offerBoth (holdoverRecord s)).channel? m =
      s.channel? m := channel?_congr (channels_offerBoth _ _)
  rw [holdoverEntered, channel?_congr (channels_abandonLoad _),
    channel?_congr (foldl_field State.channels _ channels_cancelGather _ _)]
  by_cases hn : n < 24
  · refine indices_foldl_at hn (fun u => u.channel? n = s.channel? n)
      (fun u => u.channel? n = (s.channel? n).map fun c => { c with pass := none }) abortPass (hstart n)
      (fun u b hb hu => ?_) (fun u hu => ?_) (fun u b hb hu => ?_)
    · rw [channel?_abortPass, if_neg (Ne.symm hb), hu]
    · rw [channel?_abortPass, if_pos rfl, hu]
    · rw [channel?_abortPass, if_neg (Ne.symm hb), hu]
  · have hnone : ∀ u : State, u.channel? n = none := fun u =>
      Option.eq_none_iff_forall_ne_some.2 fun c hc => hn (State.channel?_lt hc)
    rw [hnone, hnone, Option.map_none]

/-- R173 step 3, R174: every gather is cancelled, and nothing else of a group changes. -/
theorem group?_holdoverEntered (s : State) (g : Nat) :
    (holdoverEntered s).group? g = (s.group? g).map fun gr => { gr with gather := none } := by
  have hstart : (indices.foldl abortPass
      (({ s with partState := .holdover }.mark (.part 1)).offerBoth (holdoverRecord s))).group? g = s.group? g :=
    group?_congr (foldl_field State.groups _ groups_abortPass _ _) g
  rw [holdoverEntered, group?_congr (groups_abandonLoad _)]
  by_cases hg : g < 24
  · refine indices_foldl_at hg (fun u => u.group? g = s.group? g)
      (fun u => u.group? g = (s.group? g).map fun gr => { gr with gather := none }) cancelGather hstart
      (fun u b hb hu => ?_) (fun u hu => ?_) (fun u b hb hu => ?_)
    · rw [group?_cancelGather, if_neg (Ne.symm hb), hu]
    · rw [group?_cancelGather, if_pos rfl, hu]
    · rw [group?_cancelGather, if_neg (Ne.symm hb), hu]
  · have hnone : ∀ u : State, u.group? g = none := fun u =>
      Option.eq_none_iff_forall_ne_some.2 fun c hc => hg (State.group?_lt hc)
    rw [hnone, hnone, Option.map_none]

/-- R130: a load in progress ends ABANDONED, and the remembered request is dropped. -/
theorem abandonLoad_result (h : s.loader.load? = some l) :
    (abandonLoad s).lastResult = { gen := l.gen, code := .abandoned, detail := { table := .none, index := 0 } } ∧
    (abandonLoad s).remembered = none := by
  rw [abandonLoad_of_load h]
  exact ⟨(reportLoadEnd_fields l _ _ _).2.2, rfl⟩

theorem holdoverEntered_result (h : s.loader.load? = some l) :
    (holdoverEntered s).lastResult = { gen := l.gen, code := .abandoned, detail := { table := .none, index := 0 } } ∧
    (holdoverEntered s).remembered = none := by
  obtain ⟨v, hv, heq⟩ := exists_holdoverEntered s
  rw [heq]
  exact abandonLoad_result ((congrArg LoaderState.load? hv.loader).trans h)

/-- R130: COMMIT is raised for both ports where a load is abandoned. -/
theorem commit_holdoverEntered (h : s.loader.load? = some l) (p : Port) :
    ((holdoverEntered s).attention.get p).latched.getLsbD 7 = true := by
  have hcause : (causeIf .commit s.loader.load?.isSome).getLsbD 7 = true := (getLsbD_causeIf _ _ 7).2 ⟨rfl, by rw [h]; rfl⟩
  rw [(tells_holdoverEntered s).attention p]
  simp only [Attention.told, BitVec.getLsbD_or, hcause, Bool.or_true, Bool.true_or]

theorem holdoverEntered_of_idle (h : s.loader = .idle) :
    (holdoverEntered s).lastResult = s.lastResult ∧ (holdoverEntered s).remembered = s.remembered := by
  obtain ⟨v, hv, heq⟩ := exists_holdoverEntered s
  rw [heq, abandonLoad_of_idle (hv.loader.trans h)]
  exact ⟨hv.lastResult, hv.remembered⟩

theorem loader_holdoverEntered (s : State) : (holdoverEntered s).loader = .idle := loader_abandonLoad _

theorem marked_holdoverEntered {i : MirrorItem} (h : i = .part 1 ∨
    i ∈ (indices.filter s.passOpen).map MirrorItem.chanBlock ∨ i ∈ (indices.filter s.gathering).map MirrorItem.groupBlock) :
    Marked (holdoverEntered s) i := by
  refine ((tells_holdoverEntered s).marks.1 i).2 (.inr ?_)
  simp only [List.mem_append, List.mem_cons]
  tauto

theorem marked_chanBlock_holdoverEntered {n : Nat} {c : Channel} (hc : s.channel? n = some c) (hp : c.pass ≠ none) :
    Marked (holdoverEntered s) (.chanBlock n) := by
  have hopen : s.passOpen n = true := by
    rw [State.passOpen, hc]
    exact Option.isSome_iff_ne_none.2 hp
  exact marked_holdoverEntered (.inr (.inl (List.mem_map_of_mem
    (List.mem_filter.2 ⟨mem_indices.2 (State.channel?_lt hc), hopen⟩))))

theorem marked_groupBlock_holdoverEntered {g : Nat} {gr : Group} (hg : s.group? g = some gr) (hq : gr.gather ≠ none) :
    Marked (holdoverEntered s) (.groupBlock g) := by
  have hrun : s.gathering g = true := by
    rw [State.gathering, hg]
    exact Option.isSome_iff_ne_none.2 hq
  exact marked_holdoverEntered (.inr (.inr (List.mem_map_of_mem
    (List.mem_filter.2 ⟨mem_indices.2 (State.group?_lt hg), hrun⟩))))

/-! ### The start of holdover brings nothing due (R60, R71, R174) -/

theorem NoneReached.abortPass (h : NoneReached s t) (n : Nat) : NoneReached s (abortPass t n) := by
  unfold Machine.abortPass
  split
  · exact h
  · split
    · exact h
    · exact ((h.endPass n).mark _).offer _ _

theorem NoneReached.cancelGather (h : NoneReached s t) (g : Nat) : NoneReached s (cancelGather t g) := by
  unfold Machine.cancelGather
  split
  · exact (h.modGroup g _ (hgather := by simp [Group.gatherReached])).mark _
  · exact h

theorem NoneReached.holdoverEntered (s : State) : NoneReached s (holdoverEntered s) := by
  have hstart : NoneReached s (({ s with partState := .holdover }.mark (.part 1)).offerBoth (holdoverRecord s)) :=
    .of_fields rfl (channels_offerBoth _ _) rfl
  have hend := (hstart.foldl (fun v n => (NoneReached.refl v).abortPass n) indices).foldl
    (fun v g => (NoneReached.refl v).cancelGather g) indices
  exact hend.trans (.of_fields (abandonLoad_only _).clock (channels_abandonLoad _) (groups_abandonLoad _))

/-- What is owed of these kinds is due in every part state. -/
theorem mem_dueEvents_of_owes {e : Instr}
    (he : (∃ n, e = .fillExpiry n) ∨ (∃ g, e = .pinRelease g) ∨ ∃ g, e = .partialPublication g)
    (h : owes s e = true) : e ∈ dueEvents s := by
  rw [mem_dueEvents]
  rcases he with ⟨n, rfl⟩ | ⟨g, rfl⟩ | ⟨g, rfl⟩
  · refine .inr (.inl ⟨n, rfl, ?_⟩)
    obtain ⟨c, hc, hreached⟩ := (Option.any_eq_true _ _).1 h
    rw [fillDue, hc]
    cases hp : c.pass <;> simp_all [Channel.fillReached]
  · refine .inr (.inr (.inr (.inl ⟨g, rfl, ?_⟩)))
    obtain ⟨gr, hg, hreached⟩ := (Option.any_eq_true _ _).1 h
    rw [holdDue, hg]
    cases hp : gr.pin <;> simp_all [Group.holdReached]
  · refine .inr (.inr (.inr (.inr (.inl ⟨g, rfl, ?_⟩))))
    obtain ⟨gr, hg, hreached⟩ := (Option.any_eq_true _ _).1 h
    rw [gatherDue, hg]
    cases hq : gr.gather <;> simp_all [Group.gatherReached]

/-- R71, R113, R174: after the start of holdover no frame time and no freshness deadline is served, and no drain runs. -/
theorem settled_startHoldover (h : settled s = true) : settled (startHoldover s) = true := by
  have hnone : NoneReached s (startHoldover s) := (NoneReached.holdoverEntered s).takeHeld
  have hpart : (startHoldover s).partState = .holdover := (startHoldover_only s).partState
  have hkept : ∀ e, (∃ n, e = .fillExpiry n) ∨ (∃ g, e = .pinRelease g) ∨ (∃ g, e = .partialPublication g) →
      e ∉ dueEvents (startHoldover s) := fun e hkind he => by
    have hinstall : e ≠ .install := by rcases hkind with ⟨_, rfl⟩ | ⟨_, rfl⟩ | ⟨_, rfl⟩ <;> exact nofun
    have hdue := mem_dueEvents_of_owes hkind (hnone.owed e hinstall (owes_of_due he))
    rw [settled_iff.1 h] at hdue
    cases hdue
  rw [settled_iff, List.eq_nil_iff_forall_not_mem]
  intro e he
  rcases mem_dueEvents.1 he with ⟨-, hd⟩ | ⟨n, rfl, -⟩ | ⟨n, -, hd⟩ | ⟨g, rfl, -⟩ | ⟨g, rfl, -⟩ | ⟨g, -, hd⟩
  · rcases loader_takeHeld (holdoverEntered s) with ⟨hl, -⟩ | ⟨hne, -⟩
    · have hidle : (startHoldover s).loader = .idle := hl.trans (loader_holdoverEntered s)
      rw [installOwed_eq_false_of_loader fun l hdrain => nomatch hidle.symm.trans hdrain] at hd
      cases hd
    · exact hne (partState_holdoverEntered s)
  · exact hkept _ (.inl ⟨n, rfl⟩) he
  · simp [freshDue, hpart] at hd
  · exact hkept _ (.inr (.inl ⟨g, rfl⟩)) he
  · exact hkept _ (.inr (.inr ⟨g, rfl⟩)) he
  · simp [frameDue, hpart] at hd

/-! ### The fall of PFAIL_N (R172) -/

/-- R172: in HOLDOVER, and while RST_N is low, the fall changes the pin alone. -/
theorem ungranted_powerFails_of_ignored (h : s.pins.rstN = false ∨ s.partState = .holdover) :
    ungranted powerFails s = s.pfailLow := by
  have hpin : powerFails s = s.pfailLow := if_neg fun ⟨hr, hp⟩ => by
    rcases h with hlow | hhold
    · exact nomatch hr.symm.trans hlow
    · exact hp hhold
  rw [ungranted, hpin, noteReports_of_fields (by rfl) (by rfl) (by rfl) (by rfl)]

theorem ungranted_powerFails_of_starts (hr : s.pins.rstN = true) (hp : s.partState ≠ .holdover) :
    ungranted powerFails s = noteReports s (startHoldover s.pfailLow) := by
  have hstart : powerFails s = startHoldover s.pfailLow := if_pos ⟨hr, hp⟩
  rw [ungranted, hstart]

theorem ignored_or_starts (s : State) :
    (s.pins.rstN = false ∨ s.partState = .holdover) ∨ (s.pins.rstN = true ∧ s.partState ≠ .holdover) := by
  cases s.pins.rstN <;> by_cases hp : s.partState = .holdover <;> simp [hp]

theorem settled_noteReports (b s : State) : settled (noteReports b s) = settled s := by
  rw [noteReports_eq]
  rfl

theorem settled_ungranted_powerFails (h : settled s = true) : settled (ungranted powerFails s) = true := by
  rcases ignored_or_starts s with hignored | ⟨hr, hp⟩
  · rw [ungranted_powerFails_of_ignored hignored]
    exact h
  · rw [ungranted_powerFails_of_starts hr hp, settled_noteReports]
    exact settled_startHoldover (s := s.pfailLow) h

theorem ungranted_powerFails_pins (s : State) : (ungranted powerFails s).pins = s.pfailLow.pins := by
  obtain ⟨x, -, ho⟩ := powerFails_only s
  exact (ungranted_only powerFails s).pins.trans ho.pins

/-- R172: without a grant, memory and the cycle of the M port stay. -/
theorem ungranted_powerFails_only (s : State) : (ungranted powerFails s).mem = s.mem ∧
    (ungranted powerFails s).cycle = s.cycle ∧ (ungranted powerFails s).pending = s.pending := by
  obtain ⟨x, -, ho⟩ := powerFails_only s
  have hn := ungranted_only powerFails s
  exact ⟨hn.mem.trans ho.mem, hn.cycle.trans ho.cycle, hn.pending.trans ho.pending⟩

/-! ### The reset discards the holdover (R172) -/

/-- R95: the takes of the held accesses leave what the processors drive. -/
theorem inReset_takeHeld (s : State) (p : Port) : ((takeHeld s).ports.get p).inReset = (s.ports.get p).inReset := by
  have hone : ∀ q v, ((takeHeldOf q v).ports.get p).inReset = (v.ports.get p).inReset := fun q v => by
    unfold takeHeldOf
    split
    · by_cases h : p = q
      · subst h
        rw [take, State.setAccess_ports, Both.get_modify_self, ports_decodeAndAct]
        rfl
      · rw [ports_take_of_ne h]
    · rfl
  exact (hone .B _).trans (hone .A s)

/-- R168: what an access or the Loader may change, short of what the processors drive, a reset forgets. -/
theorem enterReset_congr (ho : OnlyAccess s t) (hp : ∀ p, (t.ports.get p).inReset = (s.ports.get p).inReset) :
    enterReset t = enterReset s := by
  have ha : t.ports.a.inReset = s.ports.a.inReset := hp .A
  have hb : t.ports.b.inReset = s.ports.b.inReset := hp .B
  have hmem : cutMem t = cutMem s := by rw [cutMem, cutMem, ho.cycle, ho.freeCtr, ho.mem]
  rw [enterReset, enterReset, ho.pending, ho.pins, ho.msz, ho.configPort, ha, hb, hmem, ho.freeCtr]

theorem enterReset_startHoldover (b s : State) (q : List Instr) :
    enterReset { noteReports b (startHoldover s) with pending := q } = enterReset { s with pending := q } := by
  have ho := (startHoldover_only s).trans (noteReports_only b (startHoldover s)).toAccess
  have hports : (noteReports b (startHoldover s)).ports = (startHoldover s).ports := (noteReports_only b _).ports
  exact enterReset_congr (s := { s with partState := .holdover, pending := q })
    ⟨rfl, ho.pins, ho.partState, ho.msz, ho.configPort, ho.mapState, ho.regions, ho.clock, ho.divisor, ho.prescaler,
      ho.lastGranted, ho.requestLines, ho.cycle, ho.mem, ho.installedGen, ho.freeCtr⟩
    fun p => by
      change ((noteReports b (startHoldover s)).ports.get p).inReset = (s.ports.get p).inReset
      rw [hports, startHoldover_eq, inReset_takeHeld, ports_holdoverEntered]

/-- R172: "Holdover begins, and the reset then discards it". -/
theorem resetFalls_ungranted_powerFails (s : State) (q : List Instr) :
    resetFalls { ungranted powerFails s with pending := q } = resetFalls { s.pfailLow with pending := q } := by
  rcases ignored_or_starts s with hignored | ⟨hr, hp⟩
  · rw [ungranted_powerFails_of_ignored hignored]
  · have hr' : (ungranted powerFails s).pins.rstN = true := (congrArg Pins.rstN (ungranted_powerFails_pins s)).trans hr
    rw [resetFalls, if_pos hr', resetFalls, if_pos (show s.pfailLow.pins.rstN = true from hr),
      ungranted_powerFails_of_starts hr hp]
    exact enterReset_startHoldover s s.pfailLow q

theorem exec_resetAssert_of_settled (h : settled s = true) : exec .resetAssert s = .next (resetFalls s) := by
  change Host.Outcome.next (resetFalls (settle s)) = _
  rw [settle, settleFor_of_settled _ h]

/-! ### Both orders of the two falls (R172) -/

theorem resetFalls_rstN (s : State) : (resetFalls s).pins.rstN = false := by
  unfold resetFalls
  split
  · rfl
  · rename_i h
    exact Bool.eq_false_iff.2 h

theorem settled_resetFalls (h : settled s = true) : settled (resetFalls s) = true := by
  unfold resetFalls
  split
  · exact settled_iff.2 (List.eq_nil_iff_forall_not_mem.2 fun e => (vacant_enterReset s).dueEvents)
  · exact h

/-- The pin PFAIL_N and the queue pass through a reset. -/
theorem resetFalls_pfailLow (s : State) (q r : List Instr) :
    resetFalls { s.pfailLow with pending := q } = { (resetFalls { s with pending := r }).pfailLow with pending := q } := by
  cases h : s.pins.rstN with
  | true =>
    rw [resetFalls, if_pos (show s.pfailLow.pins.rstN = true from h), resetFalls,
      if_pos (show ({ s with pending := r } : State).pins.rstN = true from h)]
    rfl
  | false =>
    rw [resetFalls, if_neg (by simp [State.pfailLow, h]), resetFalls, if_neg (by simp [h])]
    rfl

/-- R168: while RST_N is low a grant serves nobody: it notes who waits, and nothing else. -/
theorem grant_of_reset (h : s.pins.rstN = false) :
    grant s = { s with requestLines := (grant s).requestLines } := by
  have hnone := granted_of_reset h
  unfold grant grantOnce
  simp only [onGrant_of_none hnone, h]
  rfl

/-- R169: the rise sets the lines of the requesters anew. -/
theorem exec_resetRelease_requestLines (h : s.pins.rstN = false) (x : RequestLines) (m : BitVec 2) (c f : Bool) :
    exec (.resetRelease m c f) { s with requestLines := x } = exec (.resetRelease m c f) s := by
  rw [exec_resetRelease h, exec_resetRelease (s := { s with requestLines := x }) h]
  rfl

theorem exec_resetRelease_grant (h : s.pins.rstN = false) (q : List Instr) (m : BitVec 2) (c f : Bool) :
    exec (.resetRelease m c f) { grant s with pending := q } = exec (.resetRelease m c f) { s with pending := q } := by
  rw [grant_of_reset h]
  exact exec_resetRelease_requestLines (s := { s with pending := q }) h _ m c f

end Entered

/-- R172: the fall of PFAIL_N with the fall of RST_N next in the queue: its effects without a grant. -/
theorem exec_holdoverStart_of_resetFollows {s : State} {rest : List Instr} (h : s.pending = .resetAssert :: rest) :
    exec .holdoverStart s = .next (ungranted powerFails (settle s)) := by
  rw [exec_holdoverStart, h]
  rfl

/-- R172: both falls with nothing due, PFAIL_N's first: the part is the one that the reset alone leaves, with the pin low. -/
theorem steps_pfailThenReset {s : State} (h : settled s = true) (q : List Instr) :
    ∃ x, step { s with pending := .holdoverStart :: .resetAssert :: q } = .next x ∧
      step x = .next { (resetFalls { s with pending := q }).pfailLow with pending := q } := by
  let v : State := { s with pending := .resetAssert :: q }
  have hv : settle v = v := settleFor_of_settled _ h
  have hfirst : exec .holdoverStart v = .next (ungranted powerFails v) := by
    rw [exec_holdoverStart_of_resetFollows rfl, hv]
  have hpending : (ungranted powerFails v).pending = .resetAssert :: q := (ungranted_powerFails_only v).2.2
  refine ⟨ungranted powerFails v, hfirst, ?_⟩
  have hsettled : settled { ungranted powerFails v with pending := q } = true := settled_ungranted_powerFails (s := v) h
  rw [step, hpending]
  change exec .resetAssert { ungranted powerFails v with pending := q } = _
  rw [exec_resetAssert_of_settled hsettled, resetFalls_ungranted_powerFails]
  exact congrArg Host.Outcome.next (resetFalls_pfailLow s q q)

/-- R172: both falls with nothing due, RST_N's first: beside the fall of the pin, only a grant that serves nobody. -/
theorem steps_resetThenPfail {s : State} (h : settled s = true) {q : List Instr} (hq : q.head? ≠ some .resetAssert) :
    ∃ y, step { s with pending := .resetAssert :: .holdoverStart :: q } = .next y ∧
      step y = .next (grant { (resetFalls { s with pending := q }).pfailLow with pending := q }) := by
  let v : State := { s with pending := .holdoverStart :: q }
  have hpending : (resetFalls v).pending = .holdoverStart :: q := by
    unfold resetFalls
    split <;> rfl
  have hsame : ({ resetFalls v with pending := q } : State) = { resetFalls { s with pending := q } with pending := q } := by
    unfold resetFalls
    split <;> rfl
  refine ⟨resetFalls v, exec_resetAssert_of_settled (s := v) h, ?_⟩
  have hsettled : settle { resetFalls v with pending := q } = { resetFalls v with pending := q } :=
    settleFor_of_settled _ (settled_resetFalls (s := v) h)
  have hlow : ({ resetFalls v with pending := q } : State).pins.rstN = false := resetFalls_rstN v
  rw [step, hpending]
  change exec .holdoverStart { resetFalls v with pending := q } = _
  rw [exec_holdoverStart, if_neg hq, hsettled, event, ungranted_powerFails_of_ignored (.inl hlow), hsame]
  rfl

/-- R172: "Both orders leave the part in the same state after the rise". -/
theorem bothOrders_same_after_rise (s : State) (m : BitVec 2) (c f : Bool) (rest : List Instr) (h : settled s = true) :
    ∃ x x' y y' z,
      step { s with pending := .holdoverStart :: .resetAssert :: .resetRelease m c f :: rest } = .next x ∧
      step x = .next x' ∧ step x' = .next z ∧
      step { s with pending := .resetAssert :: .holdoverStart :: .resetRelease m c f :: rest } = .next y ∧
      step y = .next y' ∧ step y' = .next z := by
  obtain ⟨x, hx, hx'⟩ := steps_pfailThenReset h (.resetRelease m c f :: rest)
  obtain ⟨y, hy, hy'⟩ := steps_resetThenPfail h (q := .resetRelease m c f :: rest) nofun
  let v : State := (resetFalls { s with pending := .resetRelease m c f :: rest }).pfailLow
  have hlow : v.pins.rstN = false := resetFalls_rstN _
  have hrise := exec_resetRelease_grant (s := { v with pending := .resetRelease m c f :: rest }) hlow rest m c f
  exact ⟨x, _, y, _, _, hx, hx', exec_resetRelease (s := { v with pending := rest }) hlow m c f, hy, hy',
    hrise.trans (exec_resetRelease (s := { v with pending := rest }) hlow m c f)⟩

/-- R172: in HOLDOVER and in reset the event of the fall is that of the pin, with its grant or without. -/
theorem exec_holdoverStart_of_ignored {s u : State} (hu : u = settle s)
    (h : u.pins.rstN = false ∨ u.partState = .holdover) :
    exec .holdoverStart s =
      .next (if s.pending.head? = some .resetAssert then u.pfailLow else grant u.pfailLow) := by
  rw [exec_holdoverStart, ← hu, event, ungranted_powerFails_of_ignored h]

/-- R172: a fall of RST_N that comes together with that of PFAIL_N finds memory and the M port as they were, and leaves the
part as it would without the holdover. -/
theorem holdover_discarded_by_reset {s u : State} (hu : u = settle s) {rest : List Instr}
    (hq : s.pending = .resetAssert :: rest) (h : settled u = true) :
    ∃ t, exec .holdoverStart s = .next t ∧ t.mem = u.mem ∧ t.cycle = u.cycle ∧
      exec .resetAssert { t with pending := rest } = exec .resetAssert { u.pfailLow with pending := rest } := by
  obtain ⟨hmem, hcycle, -⟩ := ungranted_powerFails_only u
  refine ⟨ungranted powerFails u, by rw [exec_holdoverStart_of_resetFollows hq, hu], hmem, hcycle, ?_⟩
  rw [exec_resetAssert_of_settled (s := { ungranted powerFails u with pending := rest }) (settled_ungranted_powerFails h),
    exec_resetAssert_of_settled (s := { u.pfailLow with pending := rest }) h, resetFalls_ungranted_powerFails]

/-- Settles O47: the fall where it is ignored, the reset that discards the holdover, the two orders, and the start of holdover
field by field. -/
theorem aFallOfPfailStartsHoldover : Obligations.AFallOfPfailStartsHoldover := by
  intro s u done
  have hu : u = settle s := rfl
  clear_value u
  refine ⟨exec_holdoverStart_of_ignored hu, fun rest hq h => holdover_discarded_by_reset hu hq h,
    fun m c f rest => bothOrders_same_after_rise s m c f rest, fun hr hp => ?_⟩
  have hfields := holdoverEntered_eq u.pfailLow
  have hpins : (holdoverEntered u.pfailLow).pins = u.pfailLow.pins := pins_holdoverEntered _
  refine ⟨holdoverEntered u.pfailLow, exec_holdoverStart_of_starts hu hr hp, partState_holdoverEntered _, hpins,
    marked_holdoverEntered (.inl rfl), channel?_holdoverEntered u.pfailLow,
    fun n c => marked_chanBlock_holdoverEntered (s := u.pfailLow), group?_holdoverEntered u.pfailLow,
    fun g gr => marked_groupBlock_holdoverEntered (s := u.pfailLow), loader_holdoverEntered _, fun l hl => ?_,
    (tells_holdoverEntered u.pfailLow).marks.2, holdoverEntered_of_idle (s := u.pfailLow), ?_⟩
  · have hload : u.pfailLow.loader.load? = some l := by
      change u.loader.load? = some l
      rcases hl with hl | hl <;> rw [hl] <;> rfl
    obtain ⟨hresult, hremembered⟩ := holdoverEntered_result hload
    exact ⟨hresult, hremembered, commit_holdoverEntered hload⟩
  · rw [hpins, partState_holdoverEntered]
    exact hfields

end Sys2Proof.Machine

/-! SUPPORT. The queue: a step takes the command at its front, and no command touches it (spec/95_what_each_step_holds.md). -/
namespace Sys2Proof.Machine

/-! ### A step and the queue -/

theorem step_of_cons {s : State} {c : Instr} {rest : List Instr} (h : s.pending = c :: rest) :
    step s = exec c { s with pending := rest } := by
  rw [step, h]

theorem step_of_nil {s : State} (h : s.pending = []) : step s = .next s := by
  rw [step, h]

/-- Settles O1: the two branches of a step. -/
theorem stepRunsTheFrontCommand : Obligations.StepRunsTheFrontCommand :=
  ⟨fun _ _ _ => step_of_cons, fun _ => step_of_nil⟩

/-! ### The effects of commands and the queue -/

@[simp] theorem event_pending (f : State → State) (s : State) : (event f s).pending = (f s).pending :=
  (event_only f s).pending

@[simp] theorem ownEvent_pending (e : Instr) (s : State) : (ownEvent e s).pending = s.pending :=
  (ownEvent_only e s).pending

@[simp] theorem memoryCycleEnd_pending (s : State) : (memoryCycleEnd s).pending = s.pending := by
  cases hc : s.cycle with
  | none => rw [memoryCycleEnd_of_none hc]
  | some c => exact (memoryCycleEnd_only hc).pending

@[simp] theorem clockEdge_pending (s : State) : (clockEdge s).pending = s.pending := by
  rcases clockEdge_cases s with h | ⟨-, k, n, h⟩ <;> rw [h]

@[simp] theorem powerFails_pending (s : State) : (powerFails s).pending = s.pending := by
  obtain ⟨x, -, ho⟩ := powerFails_only s
  exact ho.pending

@[simp] theorem leaveReset_pending (m : BitVec 2) (c f : Bool) (s : State) : (leaveReset m c f s).pending = s.pending := by
  obtain ⟨x, -, ho⟩ := leaveReset_only m c f s
  exact ho.pending

/-- R168: the reset values are those of the part; the queue of commands is no part of it. -/
@[simp] theorem resetFalls_pending (s : State) : (resetFalls s).pending = s.pending := by
  unfold resetFalls
  split
  · rfl
  · rfl

/-- No effect from outside the part touches the queue. -/
theorem Outside.pending {i : Instr} {f : State → State} (h : Outside i f) (s : State) : (f s).pending = s.pending := by
  cases h with
  | access _ => exact (present_only _ _ s).pending
  | reqFall p => exact (dropReq_only p s).pending
  | cycleEnd => exact memoryCycleEnd_pending s
  | cycleless p => exact (completeCycleless_only p s).pending
  | tick => exact clockEdge_pending s
  | tclkEdge => exact clockEdge_pending s
  | holdover => exact powerFails_pending s

/-- Settles O2: each kind of command answers a next state, and neither its effect, nor its grant, nor what is settled before
it touches the queue. -/
theorem everyCommandAnswersAndKeepsTheQueue : Obligations.EveryCommandAnswersAndKeepsTheQueue := by
  intro i s
  rcases exec_cases i s with ⟨f, hf, e⟩ | ⟨-, e⟩ | ⟨-, -, e⟩ | ⟨-, e⟩ | ⟨m, c, f, -, -, e⟩ | ⟨-, -, e⟩ <;>
    refine ⟨_, e, ?_⟩
  · rw [event_pending, hf.pending, settle_pending]
  · rw [event_pending, ownEvent_pending]
  · rfl
  · rw [resetFalls_pending, settle_pending]
  · rw [event_pending, leaveReset_pending]
  · rw [(ungranted_powerFails_only _).2.2, settle_pending]

end Sys2Proof.Machine
